-- ==== Sys2Proof/Word.lean ====
section
/-! DEFINITION. The word types of the block: a bus or command byte, a 7-bit bus address, a nibble (spec 00_scope.md section 6). -/

namespace Sys2Proof

/-- A byte: 8 bits, bit 7 the most significant (00_scope.md section 6). -/
abbrev Byte := BitVec 8

/-- A 7-bit I2C device address (10_state.md R21). -/
abbrev Addr := BitVec 7

/-- A 4-bit half of a byte (00_scope.md section 8, Nibble). -/
abbrev Nibble := BitVec 4

end Sys2Proof
end

