-- ==== Sys2Proof/Config.lean ====
section
/-! DEFINITION. The open parameters of spec 00_scope.md R5, the choices of the environment, and the free values behind them. -/

namespace Sys2Proof

/-- The parameters that the spec itself decides (00_scope.md R5, 93_implementation_defined.md V9, U3): the two control
bits (30_encoding.md R55), the two function-set bytes (R56), the extra control bits of a character (R58), the number of
issuances of the 8-bit function set `N_FS8` (90_conflicts.md C1, D23) and the largest character count of a text command
`TEXT_MAX` (30_encoding.md R60, D21). -/
structure Config where
  displayOn   : Byte
  backlightOn : Byte
  fs8         : Byte
  fs4         : Byte
  textFlags   : Byte
  nFs8        : Nat
  textMax     : Nat
  deriving DecidableEq, Repr

/-- `b` is one single bit among bits 3:0 (30_encoding.md R55). -/
def isControlBit (b : Byte) : Bool := b == 0x01 || b == 0x02 || b == 0x04 || b == 0x08

/-- The constraints the spec puts on the parameters: both control bits are single bits inside bits 3:0 and differ
(30_encoding.md R55), the extra character flags lie inside bits 3:0 and hold neither of them (R58), the two
function-set commands differ (00_scope.md R5), and a character count fits its one byte (30_encoding.md R60). -/
def Config.wf (c : Config) : Bool :=
  isControlBit c.displayOn && isControlBit c.backlightOn && c.displayOn != c.backlightOn
    && c.textFlags &&& 0xF0 == 0 && c.textFlags &&& (c.displayOn ||| c.backlightOn) == 0 && c.fs8 != c.fs4
    && decide (c.textMax ≤ 255)

/-- How the bus answers one write transaction (20_memory.md R36): it completes, it fails, or it never completes. -/
inductive BusAnswer where
  | ok
  | busError
  | never
  deriving DecidableEq, Repr, Inhabited

/-- Who moves in a step (20_memory.md R44, 60_exceptions.md R132, 70_reset_and_hazards.md R144). `kp` and `lcd` let the
agent run the next command of its port whole; `kpEvent` and `lcdEvent` let it take one action (accept a command, or one
pin access, bus write, delay, decode or edge test); `rst` asserts the reset input.
DESIGN CHOICE, safe (assumption log 8). -/
inductive Turn where
  | kp
  | lcd
  | kpEvent
  | lcdEvent
  | rst
  deriving DecidableEq, Repr, Inhabited

/-- Free value: the level of a column line at the `n`-th read that no scripted answer covers
(20_memory.md R35, 93_implementation_defined.md V1; assumption log 4). -/
opaque Config.freeColumn : Nat → Bool

/-- Free value: the outcome of the `n`-th bus write that no scripted answer covers
(20_memory.md R36, 93_implementation_defined.md V2; assumption log 5). -/
opaque Config.freeBus : Nat → BusAnswer

/-- Free value: who moves in the `n`-th step that the schedule does not cover (20_memory.md R44; assumption log 8). -/
opaque Config.freeTurn : Nat → Turn

end Sys2Proof
end

