-- ==== Sys2Proof/Machine/Params.lean ====
section
/-! DEFINITION. The parameters of spec 00_scope.md R5 that have a value: the delays, the count of the 4-bit function set, and the defaults of the fields of `Config`. -/

namespace Sys2Proof.Machine

/-- `T_POWERON`, in ms: the wait before the first bus write of the handshake (00_scope.md R5, 42_lcd_driver.md R100). -/
def tPowerOn : Nat := 80

/-- `T_ASSERT`, in ms: the delay after an ASSERT write (00_scope.md R5, 41_nibble_writer.md R90). -/
def tAssert : Nat := 1

/-- `T_RELEASE`, in ms: the delay after a RELEASE write (00_scope.md R5, 41_nibble_writer.md R90). -/
def tRelease : Nat := 5

/-- `N_FS4`: issuances of "function set, 4-bit interface" (00_scope.md R5). -/
def nFs4 : Nat := 1

/-- `LCD_ADDR_DEFAULT`: the address commonly used (00_scope.md R5); the address itself is an operand. -/
def lcdAddrDefault : Addr := 0x27

/-- The default parameters of 00_scope.md R5. PRESUMED, unsafe: the spec marks them `[from general knowledge, not in
source]` (assumption log 1), but for `N_FS8`, three by 90_conflicts.md C1 (assumption log 26), and `TEXT_MAX`, 255 by D21. -/
def defaultConfig : Config where
  displayOn := 0x04
  backlightOn := 0x08
  fs8 := 0x30
  fs4 := 0x20
  textFlags := 0x01
  nFs8 := 3
  textMax := 255

/-- The default parameters with the literal reading of the source for `LCD_TEXT_FLAGS` (00_scope.md R5, 95_test_vectors.md). -/
def literalConfig : Config := { defaultConfig with textFlags := 0x00 }

end Sys2Proof.Machine
end

