-- ==== Sys2Proof/Machine/State.lean ====
section
/-! DEFINITION. The state of the block as plain data, its reset value, and the reasons a step can stop. -/

namespace Sys2Proof.Machine

/-- The sixteen symbolic keys (10_state.md R14). -/
inductive Key where
  | Zero | One | Two | Three | Four | Five | Six | Seven | Eight | Nine | A | B | C | D | Wildcard | Pound
  deriving DecidableEq, Repr

/-- The 4×4 boolean grid of one scan, `grid[r][c]` (10_state.md R15). -/
abbrev Grid := Vector (Vector Bool 4) 4

/-- The position of the KP sequencer (10_state.md R17). -/
inductive KpPc where
  | idle
  | rowHi (r : Fin 4)
  | sample (r c : Fin 4)
  | rowLo (r : Fin 4)
  | decode
  | edge
  deriving DecidableEq, Repr

/-- A pin event of KP (10_state.md R27): a row line driven to a level, a column line sampled. -/
inductive KpEvent where
  | rowSet (r : Fin 4) (v : Bool)
  | colSample (c : Fin 4) (v : Bool)
  deriving DecidableEq, Repr

/-- What a KP command returns to the host (30_encoding.md R61). -/
inductive KpResult where
  | key (k : Option Key)
  | refused
  deriving DecidableEq, Repr

/-- The lifecycle of the LCD driver (10_state.md R20). -/
inductive LcdState where
  | uninit
  | ready
  | failed
  deriving DecidableEq, Repr

/-- Which half of a character is being sent; `h` of TEXT(j,h,s) in 10_state.md R22, 0 being `hi`. -/
inductive Half where
  | hi
  | lo
  deriving DecidableEq, Repr

/-- The position of the LCD sequencer (10_state.md R22): INIT(i) indexes the steps of the handshake, 17 of
them with `N_FS8` = 3, TEXT(j,h,s) is step `s`
of the pulse of half `h` of character `j`. -/
inductive LcdPc where
  | idle
  | init (i : Nat)
  | text (j : Nat) (h : Half) (s : Fin 4)
  deriving DecidableEq, Repr

/-- The outcome of a bus write that completed (10_state.md R27). -/
inductive BusOutcome where
  | ok
  | busError
  deriving DecidableEq, Repr

/-- A bus or delay event of LCD (10_state.md R27). -/
inductive LcdEvent where
  | busWrite (a : Addr) (b : Byte) (o : BusOutcome)
  | delay (ms : Nat)
  deriving DecidableEq, Repr

/-- What is known of the far side: the byte on the expander's pins, and the nibbles with their low control bits that the
display controller has latched; `none` is unknown (20_memory.md R48, R49). -/
structure FarSide where
  pins : Option Byte
  latched : Option (List (Nibble × Nibble))
  deriving DecidableEq, Repr

/-- Before the first write: the pins are unknown, and nothing has been latched (10_state.md R29; assumption log 19). -/
def FarSide.unwritten : FarSide := { pins := none, latched := some [] }

/-- Nothing is known, as after a failed write (20_memory.md R49). -/
def FarSide.unknown : FarSide := { pins := none, latched := none }

/-- What an LCD command returns to the host (30_encoding.md R61). -/
inductive LcdResult where
  | ok
  | busError
  | refused
  deriving DecidableEq, Repr

/-- The KP agent (10_state.md section 2), with the model's own fields: the value KP.EDGE hands back, the answers the
environment will give to column reads, the counter of free answers, the command bytes waiting at the port. -/
structure Kp where
  /-- `row_out[0..3]`, bit `r` the level of row `r` (R11). -/
  rowOut : BitVec 4
  /-- `last_reported_key` (R13). -/
  lastReportedKey : Option Key
  /-- `grid` (R15). -/
  grid : Grid
  /-- `candidate` (R16). -/
  candidate : Option Key
  /-- `kp_pc` (R17). -/
  pc : KpPc
  /-- What KP.EDGE returns to KP.PRESSED_KEY (40_keypad.md R73, `res`); assumption log 12. -/
  ret : Option Key
  /-- The pin events, oldest first (R27). -/
  events : List KpEvent
  /-- The results returned to the host, oldest first (00_scope.md section 7). -/
  results : List KpResult
  /-- Environment: the answers to the coming column reads (20_memory.md R35); assumption log 4. -/
  colAnswers : List Bool
  /-- The model's counter of column reads answered by `Config.freeColumn`; assumption log 4. -/
  colFree : Nat
  /-- Command bytes on the KP port that are not taken yet (30_encoding.md R59); assumption log 9. -/
  port : List Byte
  deriving DecidableEq, Repr

/-- The LCD agent (10_state.md section 3), with the model's own fields: the operand of a text write, the flag of a
transaction that never completes, the environment's answers, the counter of free answers, the waiting command bytes. -/
structure Lcd where
  /-- `lcd_state` (R20). -/
  state : LcdState
  /-- `lcd_addr` (R21). -/
  addr : Addr
  /-- `lcd_pc` (R22). -/
  pc : LcdPc
  /-- The text of the LCD.WRITE_TEXT in progress, which TEXT(j,h,s) indexes (R22); assumption log 18. -/
  text : List Byte
  /-- A bus transaction is in flight that never completes (60_exceptions.md R133); assumption log 7. -/
  busHung : Bool
  /-- The bus and delay events, oldest first (R27). -/
  events : List LcdEvent
  /-- The results returned to the host, oldest first (00_scope.md section 7). -/
  results : List LcdResult
  /-- Environment: the outcomes of the coming bus writes (20_memory.md R36); assumption log 5. -/
  busAnswers : List BusAnswer
  /-- The model's counter of bus writes answered by `Config.freeBus`; assumption log 5. -/
  busFree : Nat
  /-- Command bytes on the LCD port that are not taken yet (30_encoding.md R60); assumption log 9. -/
  port : List Byte
  /-- Environment: the far side as it stood when the history began, which no `rst` resets (10_state.md R26, R29,
  70_reset_and_hazards.md R141); read by the far-side view alone; assumption log 29. -/
  farBefore : FarSide
  deriving DecidableEq, Repr

/-- The whole machine: two agents that share nothing (10_state.md R25), the parameters of 00_scope.md R5, which no step
writes (10_state.md R23, assumption log 1), and the schedule (20_memory.md R44, assumption log 8). -/
structure State where
  cfg : Config
  kp : Kp
  lcd : Lcd
  /-- Who moves in the coming steps. -/
  turns : List Turn
  /-- The model's counter of turns chosen by `Config.freeTurn`. -/
  turnFree : Nat
  deriving DecidableEq, Repr

/-- The faults that stop the machine: NONE. The one exception of the spec, a bus transaction failure, ends an operation
and the machine goes on (60_exceptions.md R120, R122). Nobody raises a fault; safe. -/
inductive Fault
  deriving DecidableEq, Repr

/-- Why the model has no meaning for an instruction. -/
inductive Refusal where
  /-- Raised by the dispatch alone, for an instruction without a meaning yet; no arm does. Safe. -/
  | notModelled (mnemonic : String)
  deriving DecidableEq, Repr

/-- A grid with no cell set. -/
def Grid.empty : Grid := Vector.replicate 4 (Vector.replicate 4 false)

/-- KP after reset (10_state.md R29, 70_reset_and_hazards.md R140); the model's own fields are empty. -/
def Kp.reset : Kp where
  rowOut := 0
  lastReportedKey := none
  grid := Grid.empty
  candidate := none
  pc := .idle
  ret := none
  events := []
  results := []
  colAnswers := []
  colFree := 0
  port := []

/-- LCD after reset (10_state.md R29, 70_reset_and_hazards.md R141). `addr` is unspecified there: DESIGN CHOICE 0,
unsafe (assumption log 2). The model's own fields are empty. -/
def Lcd.reset : Lcd where
  state := .uninit
  addr := 0
  pc := .idle
  text := []
  busHung := false
  events := []
  results := []
  busAnswers := []
  busFree := 0
  port := []
  farBefore := FarSide.unwritten

/-- The machine right after reset (10_state.md R29), with the default parameters of 00_scope.md R5. -/
def State.reset : State where
  cfg := defaultConfig
  kp := Kp.reset
  lcd := Lcd.reset
  turns := []
  turnFree := 0

end Sys2Proof.Machine
end

