-- ==== Sys2Proof/Machine/Operands.lean ====
section
/-! DEFINITION. The values the sequencers compute: key table, key codes, grid word, bus bytes, nibble split. -/

namespace Sys2Proof.Machine

/-- The `KEYMAP` table, row-major (20_memory.md R31). -/
def keymap : Vector (Vector Key 4) 4 :=
  #v[#v[.One, .Two, .Three, .A],
     #v[.Four, .Five, .Six, .B],
     #v[.Seven, .Eight, .Nine, .C],
     #v[.Wildcard, .Zero, .Pound, .D]]

/-- `LutRead(r, c)` (20_memory.md R32). -/
def lutRead (r c : Fin 4) : Key := keymap[r][c]

/-- The 4-bit code of a key at the host port (30_encoding.md R50). -/
def Key.code : Key → Nibble
  | .Zero => 0x0
  | .One => 0x1
  | .Two => 0x2
  | .Three => 0x3
  | .Four => 0x4
  | .Five => 0x5
  | .Six => 0x6
  | .Seven => 0x7
  | .Eight => 0x8
  | .Nine => 0x9
  | .A => 0xA
  | .B => 0xB
  | .C => 0xC
  | .D => 0xD
  | .Wildcard => 0xE
  | .Pound => 0xF

/-- The 5-bit word `{valid, code}` of an optional key (30_encoding.md R51). -/
def keyWord : Option Key → BitVec 5
  | none => 0
  | some k => 1#1 ++ k.code

/-- The row and column indices in the order `0, 1, 2, 3` (00_scope.md R6). -/
def indices : List (Fin 4) := [0, 1, 2, 3]

/-- The sixteen cells in row-major order (20_memory.md R33). -/
def cells : List (Fin 4 × Fin 4) := indices.flatMap fun r => indices.map fun c => (r, c)

/-- `grid[r][c]` (10_state.md R15). -/
def Grid.at (g : Grid) (r c : Fin 4) : Bool := g[r][c]

/-- `grid[r][c] <- v` (20_memory.md R33). -/
def Grid.put (g : Grid) (r c : Fin 4) (v : Bool) : Grid := g.set r (g[r].set c v)

/-- The grid word: bit `4*r + c` is `grid[r][c]` (30_encoding.md R52); notation for claims and tests. -/
def Grid.word (g : Grid) : BitVec 16 :=
  cells.foldl (fun w rc => if g.at rc.1 rc.2 then w ||| 1#16 <<< (4 * rc.1.val + rc.2.val) else w) 0

/-- The decode loop: row-major, every set cell overwrites the candidate (40_keypad.md R71, R74). -/
def decodeGrid (g : Grid) : Option Key :=
  cells.foldl (fun cand rc => if g.at rc.1 rc.2 then some (lutRead rc.1 rc.2) else cand) none

/-- The one-bit mask of row `r` in `row_out`. -/
def rowMask (r : Fin 4) : BitVec 4 := 1#4 <<< r.val

/-- High nibble byte of a character code (30_encoding.md R57). -/
def hiNibble (c : Byte) : Byte := c &&& 0xF0

/-- Low nibble byte of a character code (30_encoding.md R57). -/
def loNibble (c : Byte) : Byte := (c <<< 4) &&& 0xF0

/-- The nibble byte of one half of a character (30_encoding.md R57). -/
def halfNibble (c : Byte) : Half → Byte
  | .hi => hiNibble c
  | .lo => loNibble c

/-- The flags of a handshake command (30_encoding.md R53). -/
def cmdFlags (cfg : Config) : Byte := cfg.displayOn ||| cfg.backlightOn

/-- The flags of a character nibble (30_encoding.md R53, R58). -/
def charFlags (cfg : Config) : Byte := cfg.displayOn ||| cfg.backlightOn ||| cfg.textFlags

/-- The ASSERT byte of a pulse (30_encoding.md R53). -/
def assertByte (payload flags : Byte) : Byte := payload ||| flags

/-- The RELEASE byte of a pulse: the backlight bit and nothing else (30_encoding.md R54). -/
def releaseByte (cfg : Config) : Byte := cfg.backlightOn

/-- The command bytes of the handshake in order (42_lcd_driver.md R100, R101). -/
def handshakeCommands (cfg : Config) : List Byte := List.replicate cfg.nFs8 cfg.fs8 ++ List.replicate nFs4 cfg.fs4

/-- The number of steps of the handshake: the power-on delay and four for each command (42_lcd_driver.md R101: 17 with
`N_FS8` = 3). -/
def initLength (cfg : Config) : Nat := 1 + 4 * (cfg.nFs8 + nFs4)

end Sys2Proof.Machine
end

