-- ==== Sys2Proof/Syntax.lean ====
section
/-! DEFINITION. The instructions: one constructor per row of spec/opcode_table.json. -/

namespace Sys2Proof

/-- The eleven rows of the opcode table: three host operations, five internal procedures, three bus byte forms
(30_encoding.md section 8). -/
inductive Instr where
  /-- KP.PRESSED_KEY, host operation (40_keypad.md R73). -/
  | kpPressedKey
  /-- LCD.TRY_NEW with its 7-bit device address (42_lcd_driver.md R100). -/
  | lcdTryNew (addr : Addr)
  /-- LCD.WRITE_TEXT with its 8-bit character codes, first character first (42_lcd_driver.md R102). -/
  | lcdWriteText (text : List Byte)
  /-- KP.SCAN, internal procedure (40_keypad.md R70). -/
  | kpScan
  /-- KP.DECODE, internal procedure (40_keypad.md R71). -/
  | kpDecode
  /-- KP.EDGE, internal procedure (40_keypad.md R72). -/
  | kpEdge
  /-- NW.PULSE with the byte before control bits and the control bits (41_nibble_writer.md R90). -/
  | nwPulse (payload flags : Byte)
  /-- NW.SEND_CHAR with the character code (41_nibble_writer.md R91). -/
  | nwSendChar (c : Byte)
  /-- BUS.ASSERT_CMD, the ASSERT byte of a handshake command, with the command byte before control bits (30_encoding.md R53). -/
  | busAssertCmd (payload : Byte)
  /-- BUS.ASSERT_CHAR, the ASSERT byte of a character nibble, with the nibble byte of R57 (30_encoding.md R53, R58). -/
  | busAssertChar (nib : Byte)
  /-- BUS.RELEASE, the RELEASE byte (30_encoding.md R54). -/
  | busRelease
  deriving DecidableEq, Repr

end Sys2Proof
end

