-- ==== Sys2Proof/WellFormed.lean ====
section
/-! DEFINITION. Well-formed instructions: the operands the spec allows. -/

namespace Sys2Proof

/-- The operands an instruction may have. A text has at most `TEXT_MAX` characters (30_encoding.md R60). The flags of a
pulse are control bits in 3:0 that contain both DISPLAY_ON and BACKLIGHT_ON (R53, 41_nibble_writer.md R90). The operand
of an ASSERT byte form is the nibble the table's row leaves free, in bits 7:4 (30_encoding.md R53, R57). -/
def Instr.wf (c : Config) : Instr → Bool
  | .kpPressedKey => true
  | .lcdTryNew _ => true
  | .lcdWriteText text => text.length ≤ c.textMax
  | .kpScan => true
  | .kpDecode => true
  | .kpEdge => true
  | .nwPulse _ flags =>
    flags &&& 0xF0 == 0 && flags &&& (c.displayOn ||| c.backlightOn) == c.displayOn ||| c.backlightOn
  | .nwSendChar _ => true
  | .busAssertCmd payload => payload &&& 0x0F == 0
  | .busAssertChar nib => nib &&& 0x0F == 0
  | .busRelease => true

end Sys2Proof
end

