-- ==== Sys2Proof/Decode.lean ====
section
/-! DEFINITION. The decoder of command and bus bytes, total and rejecting by name; the encoder; the table's words (spec 30_encoding.md sections 2, 4, 5). -/

namespace Sys2Proof

open Sys2Proof.Machine

/-- Where bytes are read: the two command ports (30_encoding.md R59, R60), and the bus, on which the block only emits
bytes (R53, R54), so that a bus byte is decoded by a reader of the bus, not by the block. -/
inductive Port where
  | kp
  | lcd
  | bus
  deriving DecidableEq, Repr

/-- Why bytes are no instruction (30_encoding.md R62; a count above `TEXT_MAX`, R60, assumption log 27). -/
inductive Reserved where
  | kpByte (b : Byte)
  | lcdOpcode (b : Byte)
  | tryNewOperand (b : Byte)
  | busByte (b : Byte)
  | textCount (n : Byte)
  deriving DecidableEq, Repr

/-- What a decoder finds at the head of a byte stream: an instruction, a reserved command, or too few bytes; with the
bytes that follow. -/
inductive Decoded where
  | instr (i : Instr) (rest : List Byte)
  | reserved (why : Reserved) (rest : List Byte)
  | incomplete
  deriving DecidableEq, Repr

/-- The KP command port: 0x01 and nothing else (30_encoding.md R59, R62). -/
def decodeKp : List Byte → Decoded
  | [] => .incomplete
  | b :: rest => if b = 0x01 then .instr .kpPressedKey rest else .reserved (.kpByte b) rest

/-- LCD.TRY_NEW's operand byte `0aaaaaaa` (30_encoding.md R60, R62). -/
def decodeTryNew : List Byte → Decoded
  | [] => .incomplete
  | a :: rest =>
    if a.getLsbD 7 then .reserved (.tryNewOperand a) rest else .instr (.lcdTryNew (a.setWidth 7)) rest

/-- LCD.WRITE_TEXT's count byte and characters (30_encoding.md R60, R63). A count above `TEXT_MAX` is reserved, with its
characters: DESIGN CHOICE, unsafe below the default 255, with which there is none (assumption log 27). -/
def decodeWriteText (cfg : Config) : List Byte → Decoded
  | [] => .incomplete
  | n :: rest =>
    if (rest.take n.toNat).length < n.toNat then .incomplete
    else if n.toNat ≤ cfg.textMax then .instr (.lcdWriteText (rest.take n.toNat)) (rest.drop n.toNat)
    else .reserved (.textCount n) (rest.drop n.toNat)

/-- The LCD command port: opcode byte first; a reserved opcode consumes no operand (30_encoding.md R60, R62). -/
def decodeLcd (cfg : Config) : List Byte → Decoded
  | [] => .incomplete
  | b :: rest =>
    if b = 0x10 then decodeTryNew rest
    else if b = 0x11 then decodeWriteText cfg rest
    else .reserved (.lcdOpcode b) rest

/-- A byte on the bus, read with the parameters `cfg`: RELEASE, or an ASSERT byte by its control bits
(30_encoding.md R53, R54, R58). Where LCD_TEXT_FLAGS is 0 the two ASSERT forms are one and it is read as a command: DESIGN
CHOICE (assumption log 11). A command byte of the handshake whose bits 3:0 set more than the flags (R53 ORs them in) is
read by the bits it has, as a character's ASSERT byte or as reserved: DESIGN CHOICE, safe, since the block itself reads no
bus byte (assumption log 30). -/
def decodeBus (cfg : Config) : List Byte → Decoded
  | [] => .incomplete
  | b :: rest =>
    if b = releaseByte cfg then .instr .busRelease rest
    else if b &&& 0x0F = cmdFlags cfg then .instr (.busAssertCmd (b &&& 0xF0)) rest
    else if b &&& 0x0F = charFlags cfg then .instr (.busAssertChar (b &&& 0xF0)) rest
    else .reserved (.busByte b) rest

/-- The decoder. -/
def decode (cfg : Config) : Port → List Byte → Decoded
  | .kp, bs => decodeKp bs
  | .lcd, bs => decodeLcd cfg bs
  | .bus, bs => decodeBus cfg bs

/-- Where an instruction's bytes are read; internal procedures have no encoding (30_encoding.md R59, R60, section 8). -/
def Instr.port : Instr → Option Port
  | .kpPressedKey => some .kp
  | .lcdTryNew _ => some .lcd
  | .lcdWriteText _ => some .lcd
  | .kpScan => none
  | .kpDecode => none
  | .kpEdge => none
  | .nwPulse _ _ => none
  | .nwSendChar _ => none
  | .busAssertCmd _ => some .bus
  | .busAssertChar _ => some .bus
  | .busRelease => some .bus

/-- The bytes of an instruction (30_encoding.md R53, R54, R59, R60); none for an internal procedure. -/
def encode (cfg : Config) : Instr → Option (List Byte)
  | .kpPressedKey => some [0x01]
  | .lcdTryNew addr => some [0x10, addr.setWidth 8]
  | .lcdWriteText text => some (0x11 :: BitVec.ofNat 8 text.length :: text)
  | .kpScan => none
  | .kpDecode => none
  | .kpEdge => none
  | .nwPulse _ _ => none
  | .nwSendChar _ => none
  | .busAssertCmd payload => some [assertByte payload (cmdFlags cfg)]
  | .busAssertChar nib => some [assertByte nib (charFlags cfg)]
  | .busRelease => some [releaseByte cfg]

/-- The bytes of a word numbered as spec/opcode_table.json numbers it: the LCD.TRY_NEW row (match 0x1000, mask 0xFF80)
has its opcode byte in bits 15:8; every other row has byte 0 in bits 7:0. DEDUCED (assumption log 10). -/
def tableBytes (nbits w : Nat) : List Byte :=
  if nbits = 16 ∧ w / 128 = 32 then [BitVec.ofNat 8 (w / 256), BitVec.ofNat 8 w]
  else (List.range ((nbits + 7) / 8)).map fun i => BitVec.ofNat 8 (w / 256 ^ i)

/-- Zero bytes for the operand bytes the table gives no bits: a count byte and 255 characters. -/
def operandZeros : List Byte := List.replicate 256 0

/-- The instruction the decoder reads from a table word, on whichever of the three places its bytes are read, with the
default parameters, which the table assumes (assumption log 10). -/
def decodeTableWord (nbits w : Nat) : Option Instr :=
  match decodeKp (tableBytes nbits w ++ operandZeros) with
  | .instr i _ => some i
  | _ =>
    match decodeLcd defaultConfig (tableBytes nbits w ++ operandZeros) with
    | .instr i _ => some i
    | _ =>
      match decodeBus defaultConfig (tableBytes nbits w ++ operandZeros) with
      | .instr i _ => some i
      | _ => none

end Sys2Proof
end

