-- ==== Sys2Proof/Machine/Flags.lean ====
section
/-! DEFINITION. The read-only views of the state: STATUS, the ready signals, the result words. The block has no arithmetic flags (spec 10_state.md section 4). -/

namespace Sys2Proof.Machine

/-- `kp_busy` (10_state.md R24). -/
def State.kpBusy (s : State) : Bool := s.kp.pc != .idle

/-- `lcd_busy` (10_state.md R24). -/
def State.lcdBusy (s : State) : Bool := s.lcd.pc != .idle

/-- `lcd_ready` (10_state.md R24). -/
def State.lcdReady (s : State) : Bool := s.lcd.state == .ready

/-- `lcd_failed` (10_state.md R24). -/
def State.lcdFailed (s : State) : Bool := s.lcd.state == .failed

/-- The 4-bit STATUS view, bit 0 `kp_busy` up to bit 3 `lcd_failed` (10_state.md R24). -/
def State.status (s : State) : BitVec 4 :=
  BitVec.ofBool s.lcdFailed ++ BitVec.ofBool s.lcdReady ++ BitVec.ofBool s.lcdBusy ++ BitVec.ofBool s.kpBusy

/-- `kp_cmd_ready`: a command is accepted only when `kp_pc = IDLE` (30_encoding.md R59). -/
def Kp.cmdReady (k : Kp) : Bool := k.pc == .idle

/-- `lcd_cmd_ready`: a command is accepted only when `lcd_pc = IDLE` (30_encoding.md R60). -/
def Lcd.cmdReady (l : Lcd) : Bool := l.pc == .idle

/-- The KP result word; a refused command gives 0x00 (30_encoding.md R61). -/
def KpResult.word : KpResult → BitVec 5
  | .key k => keyWord k
  | .refused => 0

/-- `kp_refused` (30_encoding.md R61). -/
def KpResult.isRefused : KpResult → Bool
  | .key _ => false
  | .refused => true

/-- The 2-bit LCD result word (30_encoding.md R61). -/
def LcdResult.word : LcdResult → BitVec 2
  | .ok => 0b00
  | .busError => 0b01
  | .refused => 0b10

end Sys2Proof.Machine
end

