-- ==== Sys2Proof/Machine/Environment.lean ====
section
/-! DEFINITION. Views of the environment that no operation of the block reads: the ideal switch matrix and the far side of the bus (spec 20_memory.md R35, R48, R49; 70_reset_and_hazards.md R144). -/

namespace Sys2Proof.Machine

/-- The ideal matrix: a column reads high exactly when a pressed key joins it to a row driven high (20_memory.md R35). -/
def idealColumn (rowOut : BitVec 4) (sw : Grid) (c : Fin 4) : Bool :=
  indices.any fun r => rowOut.getLsbD r.val && sw.at r c

/-- The sixteen answers of the ideal matrix to one scan while the switches `sw` are held: the row strobed is the only
one high (20_memory.md R35). -/
def idealAnswers (sw : Grid) : List Bool := cells.map fun rc => idealColumn (rowMask rc.1) sw rc.2

/-- The grid with exactly the listed keys pressed. -/
def pressed (keys : List (Fin 4 × Fin 4)) : Grid := keys.foldl (fun g rc => g.put rc.1 rc.2 true) Grid.empty

/-- Does the enable line, the DISPLAY_ON bit, stand high in a byte on the pins (20_memory.md R48)? -/
def enableHigh (cfg : Config) (b : Byte) : Bool := b &&& cfg.displayOn != 0

/-- One event seen from the far side. A write that takes enable from high to low latches what the pins presented
(20_memory.md R48, D34); a failed write leaves all unknown, and a fall from unknown pins what was latched (R49, U1, U2). -/
def farStep (cfg : Config) (f : FarSide) (e : LcdEvent) : FarSide :=
  match e with
  | .delay _ => f
  | .busWrite _ _ .busError => FarSide.unknown
  | .busWrite _ b .ok =>
    if enableHigh cfg b then { f with pins := some b }
    else
      match f.pins with
      | none => { pins := some b, latched := none }
      | some p =>
        { pins := some b
          latched := if enableHigh cfg p then f.latched.map (· ++ [(p.extractLsb' 4 4, p.extractLsb' 0 4)]) else f.latched }

/-- The far side after some events, from what it was before them. -/
def farFrom (cfg : Config) (f : FarSide) (events : List LcdEvent) : FarSide := events.foldl (farStep cfg) f

/-- The far side after a history that begins before the first write (20_memory.md R48; assumption log 19). -/
def farSide (cfg : Config) (events : List LcdEvent) : FarSide := farFrom cfg FarSide.unwritten events

/-- The far side as the machine stands (20_memory.md R48; assumption log 29). -/
def Lcd.farView (cfg : Config) (l : Lcd) : FarSide := farFrom cfg l.farBefore l.events

/-- The positions inside an enable pulse, from the completed ASSERT write to the end of its last delay
(41_nibble_writer.md R90, 42_lcd_driver.md R101). -/
def LcdPc.insidePulse : LcdPc → Bool
  | .idle => false
  | .init i => i != 0 && i % 4 != 1
  | .text _ _ s => s != 0

/-- The far side after an `rst`: what the pins held they hold (70_reset_and_hazards.md R141); with a pulse abandoned what
the controller latched is unknown, and with a write in flight the pins are too, as after a failure (R144, 20_memory.md R49;
assumption log 29). -/
def Lcd.farAfterRst (cfg : Config) (l : Lcd) : FarSide :=
  if l.busHung then FarSide.unknown
  else if l.pc.insidePulse then { l.farView cfg with latched := none }
  else l.farView cfg

end Sys2Proof.Machine
end

