-- ==== Sys2Proof/Machine/Ops.lean ====
section
/-! DEFINITION. The named operations: pin accesses, the bus write, the delay, the one exception, the sequencers' actions and orders. -/

namespace Sys2Proof.Machine

/-! KP: pins (spec 20_memory.md section 3). -/

/-- `RowWrite(r, v)`: drives row line `r` and records it (20_memory.md R34). -/
def rowWrite (r : Fin 4) (v : Bool) (k : Kp) : Kp :=
  { k with
    rowOut := if v then k.rowOut ||| rowMask r else k.rowOut &&& ~~~(rowMask r)
    events := k.events ++ [.rowSet r v] }

/-- The environment's answer to the next column read: the next scripted one, or a free value (20_memory.md R35, V1;
assumption log 4). -/
def nextColumn (k : Kp) : Bool :=
  match k.colAnswers with
  | v :: _ => v
  | [] => Config.freeColumn k.colFree

/-- The environment after it has answered one column read. -/
def dropColumn (k : Kp) : Kp :=
  match k.colAnswers with
  | _ :: vs => { k with colAnswers := vs }
  | [] => { k with colFree := k.colFree + 1 }

/-- `grid[r][c] <- (ColRead(c) == 1)`, with its `ColSample` event (20_memory.md R34, 40_keypad.md R70). -/
def sampleCell (r c : Fin 4) (k : Kp) : Kp :=
  { dropColumn k with
    grid := k.grid.put r c (nextColumn k)
    events := k.events ++ [.colSample c (nextColumn k)] }

/-! KP: the actions of the sequencer (40_keypad.md R70, R71, R72). -/

/-- KP.DECODE's effect: `candidate` from the grid (40_keypad.md R71). -/
def decodeCandidate (k : Kp) : Kp := { k with candidate := decodeGrid k.grid }

/-- KP.EDGE's effect: report a change only (40_keypad.md R72). -/
def edgeDetect (k : Kp) : Kp :=
  { k with
    lastReportedKey := if k.candidate = k.lastReportedKey then k.lastReportedKey else k.candidate
    ret := if k.candidate = k.lastReportedKey then none else k.candidate }

/-- The action at a position of the KP sequencer (10_state.md R17). -/
def kpAct : KpPc → Kp → Kp
  | .idle, k => k
  | .rowHi r, k => rowWrite r true k
  | .sample r c, k => sampleCell r c k
  | .rowLo r, k => rowWrite r false k
  | .decode, k => decodeCandidate k
  | .edge, k => edgeDetect k

/-- The sequencer goes to a position and performs its action. -/
def kpAt (k : Kp) (p : KpPc) : Kp := kpAct p { k with pc := p }

/-- The positions of one scan in order (40_keypad.md R70). -/
def scanPositions : List KpPc :=
  indices.flatMap fun r => .rowHi r :: (indices.map fun c => .sample r c) ++ [.rowLo r]

/-- KP.SCAN (40_keypad.md R70). -/
def kpScan (k : Kp) : Kp := scanPositions.foldl kpAt k

/-- The end of KP.PRESSED_KEY: `kp_pc <- IDLE; return res` (40_keypad.md R73). -/
def kpReturn (k : Kp) : Kp := { k with pc := .idle, results := k.results ++ [.key k.ret] }

/-- KP.PRESSED_KEY: scan, decode, edge, return (40_keypad.md R73). -/
def pressedKey (k : Kp) : Kp := kpReturn (kpAt (kpAt (kpScan k) .decode) .edge)

/-- A reserved KP command: Refused and nothing else (30_encoding.md R61, R62). -/
def kpRefuse (k : Kp) : Kp := { k with results := k.results ++ [.refused] }

/-- The position after `p` in the fixed order (10_state.md R17). -/
def KpPc.next : KpPc → KpPc
  | .idle => .idle
  | .rowHi r => .sample r 0
  | .sample r c => if c = 3 then .rowLo r else .sample r (c + 1)
  | .rowLo r => if r = 3 then .decode else .rowHi (r + 1)
  | .decode => .edge
  | .edge => .idle

/-- KP accepts KP.PRESSED_KEY: the sequencer goes to its first position (10_state.md R17). -/
def kpBegin (k : Kp) : Kp := { k with pc := .rowHi 0 }

/-- One action of a KP operation in progress, and the sequencer moves on (10_state.md R17, 40_keypad.md R80). -/
def kpAdvance (k : Kp) : Kp :=
  match k.pc with
  | .idle => k
  | .edge => kpReturn (edgeDetect k)
  | p => { kpAct p k with pc := p.next }

/-! LCD: the exception, the bus write, the delay (60_exceptions.md section 2, 20_memory.md R36, R47). -/

/-- How a step of the LCD sequencer ends: the operation goes on, it has ended by the exception, or the agent waits for
a transaction that never completes. -/
inductive Flow where
  | goOn
  | ended
  | waiting
  deriving DecidableEq, Repr

/-- An LCD operation returns a result: idle, operand dropped (42_lcd_driver.md R100, R102). -/
def lcdReturn (r : LcdResult) (l : Lcd) : Lcd :=
  { l with pc := .idle, text := [], results := l.results ++ [r] }

/-- A refused LCD command: Refused and nothing else (60_exceptions.md R128). -/
def lcdRefuse (l : Lcd) : Lcd := { l with results := l.results ++ [.refused] }

/-- The lifecycle after the exception: FAILED if the operation is LCD.TRY_NEW, else unchanged (60_exceptions.md R122). -/
def stateAfterError (l : Lcd) : LcdState :=
  match l.pc with
  | .init _ => .failed
  | _ => l.state

/-- TAKING THE EXCEPTION `BusError`: the operation ends at once, the sequencer is idle, a handshake fails for good, the
host gets BusError; nothing is saved (60_exceptions.md R121, R122, R123). There is no return from it. -/
def raiseBusError (l : Lcd) : Lcd := { lcdReturn .busError l with state := stateAfterError l }

/-- The environment's answer to the next bus write: the next scripted one, or a free value (20_memory.md R36, V2;
assumption log 5). -/
def nextBus (l : Lcd) : BusAnswer :=
  match l.busAnswers with
  | a :: _ => a
  | [] => Config.freeBus l.busFree

/-- The environment after it has answered one bus write. -/
def dropBus (l : Lcd) : Lcd :=
  match l.busAnswers with
  | _ :: as => { l with busAnswers := as }
  | [] => { l with busFree := l.busFree + 1 }

/-- A completed bus write is recorded (20_memory.md R36). -/
def recordWrite (b : Byte) (o : BusOutcome) (l : Lcd) : Lcd :=
  { l with events := l.events ++ [.busWrite l.addr b o] }

/-- `I2cWrite(lcd_addr, b)` with the exception it may raise (20_memory.md R36, 60_exceptions.md R120, R133). While a
transaction is in flight that never completes, no other starts (20_memory.md R42). Run on an idle LCD, a write that never
completes leaves it idle with `busHung` set: DESIGN CHOICE (assumption log 28). -/
def i2cWrite (b : Byte) (l : Lcd) : Flow × Lcd :=
  if l.busHung then (.waiting, l)
  else
    match nextBus l with
    | .ok => (.goOn, recordWrite b .ok (dropBus l))
    | .busError => (.ended, raiseBusError (recordWrite b .busError (dropBus l)))
    | .never => (.waiting, { dropBus l with busHung := true })

/-- `Delay(n)` (20_memory.md R47). -/
def delayMs (n : Nat) (l : Lcd) : Lcd := { l with events := l.events ++ [.delay n] }

/-- One step of the LCD sequencer. -/
inductive LcdAct where
  | write (b : Byte)
  | wait (ms : Nat)
  deriving DecidableEq, Repr

/-- Performing one step. -/
def lcdAct : LcdAct → Lcd → Flow × Lcd
  | .write b, l => i2cWrite b l
  | .wait n, l => (.goOn, delayMs n l)

/-- A list of positions and steps, one at a time, each begun after the one before has finished (20_memory.md R42); it
stops at the exception and at a transaction that never completes, and none begins while such a one is in flight. -/
def runActs : List (LcdPc × LcdAct) → Lcd → Flow × Lcd
  | [], l => (.goOn, l)
  | (p, a) :: rest, l =>
    if l.busHung then (.waiting, l)
    else
      match lcdAct a { l with pc := p } with
      | (.goOn, l') => runActs rest l'
      | (.ended, l') => (.ended, l')
      | (.waiting, l') => (.waiting, l')

/-! LCD: the step lists (41_nibble_writer.md R90, R91; 42_lcd_driver.md R100, R101, R102). -/

/-- Step `s` of the pulse of `payload` with `flags` (41_nibble_writer.md R90). -/
def pulseAct (cfg : Config) (payload flags : Byte) (s : Fin 4) : LcdAct :=
  match s with
  | 0 => .write (assertByte payload flags)
  | 1 => .wait tAssert
  | 2 => .write (releaseByte cfg)
  | 3 => .wait tRelease

/-- NW.PULSE with its four steps at the positions `site` (41_nibble_writer.md R90). -/
def pulseActs (cfg : Config) (site : Fin 4 → LcdPc) (payload flags : Byte) : List (LcdPc × LcdAct) :=
  indices.map fun s => (site s, pulseAct cfg payload flags s)

/-- NW.SEND_CHAR with its eight steps at the positions `site` (41_nibble_writer.md R91). -/
def charActs (cfg : Config) (site : Half → Fin 4 → LcdPc) (c : Byte) : List (LcdPc × LcdAct) :=
  pulseActs cfg (site .hi) (hiNibble c) (charFlags cfg) ++ pulseActs cfg (site .lo) (loNibble c) (charFlags cfg)

/-- The position of step `s` of pulse `k` of the handshake (42_lcd_driver.md R101). -/
def initSite (k : Nat) (s : Fin 4) : LcdPc := .init (1 + 4 * k + s.val)

/-- The pulses of the handshake from pulse `k` on. -/
def initPulses (cfg : Config) : Nat → List Byte → List (LcdPc × LcdAct)
  | _, [] => []
  | k, b :: bs => pulseActs cfg (initSite k) b (cmdFlags cfg) ++ initPulses cfg (k + 1) bs

/-- `INIT_SEQ`: the power-on delay, then one pulse a command (42_lcd_driver.md R100, R101). -/
def initActs (cfg : Config) : List (LcdPc × LcdAct) :=
  (.init 0, .wait tPowerOn) :: initPulses cfg 0 (handshakeCommands cfg)

/-- The characters from index `j` on, in order (42_lcd_driver.md R102). -/
def textActs (cfg : Config) : Nat → List Byte → List (LcdPc × LcdAct)
  | _, [] => []
  | j, c :: cs => charActs cfg (fun h s => .text j h s) c ++ textActs cfg (j + 1) cs

/-- The end of a handshake that ran to completion: READY and Ok (42_lcd_driver.md R100, step 4). -/
def initReturn (l : Lcd) : Lcd := { lcdReturn .ok l with state := .ready }

/-- What an operation does when its steps have been run: its own end if they all completed; the exception has ended it
already, and a hang keeps it where it is. -/
def whenDone (fin : Lcd → Lcd) : Flow × Lcd → Lcd
  | (.goOn, l) => fin l
  | (.ended, l) => l
  | (.waiting, l) => l

/-- LCD.TRY_NEW (42_lcd_driver.md R100, R103). With a hung transaction on an idle LCD, which no run reaches, it stores the
address and waits: DESIGN CHOICE (assumption log 28). -/
def tryNew (cfg : Config) (addr : Addr) (l : Lcd) : Lcd :=
  if l.state = .uninit then whenDone initReturn (runActs (initActs cfg) { l with addr := addr })
  else lcdRefuse l

/-- LCD.WRITE_TEXT (42_lcd_driver.md R102, R103). With a hung transaction on an idle LCD, which no run reaches, it stores
the text and waits: DESIGN CHOICE (assumption log 28). -/
def writeText (cfg : Config) (text : List Byte) (l : Lcd) : Lcd :=
  if l.state = .ready then whenDone (lcdReturn .ok) (runActs (textActs cfg 0 text) { l with text := text })
  else lcdRefuse l

/-- The positions of a pulse run where the sequencer stands: the four steps of the pulse that holds the position; an
idle sequencer stays idle (assumption log 12). -/
def LcdPc.pulseSite : LcdPc → Fin 4 → LcdPc
  | .idle, _ => .idle
  | .init i, s => initSite ((i - 1) / 4) s
  | .text j h _, s => .text j h s

/-- The positions of a character run where the sequencer stands (assumption log 12). -/
def LcdPc.charSite : LcdPc → Half → Fin 4 → LcdPc
  | .idle, _, _ => .idle
  | .init i, _, s => initSite ((i - 1) / 4) s
  | .text j _ _, h, s => .text j h s

/-! LCD: the event-level sequencer (10_state.md R22). -/

/-- The command byte of pulse `k` of the handshake (42_lcd_driver.md R101). -/
def handshakeByte (cfg : Config) (k : Nat) : Byte := if k < cfg.nFs8 then cfg.fs8 else cfg.fs4

/-- The step at a position (10_state.md R22, 42_lcd_driver.md R101); none when idle or past the text. -/
def stepAt (cfg : Config) (text : List Byte) : LcdPc → Option LcdAct
  | .idle => none
  | .init i =>
    if i = 0 then some (.wait tPowerOn)
    else some (pulseAct cfg (handshakeByte cfg ((i - 1) / 4)) (cmdFlags cfg) (Fin.ofNat 4 (i - 1)))
  | .text j h s => text[j]?.map fun c => pulseAct cfg (halfNibble c h) (charFlags cfg) s

/-- The sequencer moves on from a step that completed; the last step ends the operation (10_state.md R22). -/
def lcdMoveOn (cfg : Config) (l : Lcd) : Lcd :=
  match l.pc with
  | .idle => l
  | .init i => if i + 1 < initLength cfg then { l with pc := .init (i + 1) } else initReturn l
  | .text j h s =>
    if s.val ≠ 3 then { l with pc := .text j h (s + 1) }
    else if h = .hi then { l with pc := .text j .lo 0 }
    else if j + 1 < l.text.length then { l with pc := .text (j + 1) .hi 0 }
    else lcdReturn .ok l

/-- One step of an LCD operation in progress, and the sequencer moves on (10_state.md R22). A position past the end of
the text, which no run reaches, is the end of the loop of 42_lcd_driver.md R102 (assumption log 22). -/
def lcdAdvance (cfg : Config) (l : Lcd) : Lcd :=
  if l.busHung then l
  else if l.pc = .idle then l
  else
    match stepAt cfg l.text l.pc with
    | none => lcdReturn .ok l
    | some a => whenDone (lcdMoveOn cfg) (lcdAct a l)

/-- LCD accepts LCD.TRY_NEW: the lifecycle check, the address, the first position (42_lcd_driver.md R100, R103). -/
def beginTryNew (addr : Addr) (l : Lcd) : Lcd :=
  if l.state = .uninit then { l with addr := addr, pc := .init 0 } else lcdRefuse l

/-- LCD accepts LCD.WRITE_TEXT: the lifecycle check, the operand, the first position; an empty text is done at once
(42_lcd_driver.md R102, R103). -/
def beginWriteText (text : List Byte) (l : Lcd) : Lcd :=
  if l.state = .ready then
    if text = [] then lcdReturn .ok l else { l with text := text, pc := .text 0 .hi 0 }
  else lcdRefuse l

/-! Reset (70_reset_and_hazards.md R140, R141, R144). -/

/-- `rst` seen by KP: the reset values; the environment's answers and the bytes at the port are not the block's
(assumption log 16). -/
def Kp.rst (k : Kp) : Kp :=
  { Kp.reset with colAnswers := k.colAnswers, colFree := k.colFree, port := k.port }

/-- `rst` seen by LCD: UNINIT and idle, the operation abandoned, no bus write and no delay; the address register, which
is unspecified after reset, is left alone (R141; assumption log 16). The expander and the display are not reset:
the far side is carried over, undefined where a pulse is abandoned (R141, R144; assumption log 29). -/
def Lcd.rst (cfg : Config) (l : Lcd) : Lcd :=
  { Lcd.reset with
    addr := l.addr, busAnswers := l.busAnswers, busFree := l.busFree, port := l.port, farBefore := l.farAfterRst cfg }

/-- One `rst` resets both agents (R144). -/
def State.rst (s : State) : State := { s with kp := s.kp.rst, lcd := s.lcd.rst s.cfg }

end Sys2Proof.Machine
end

