-- ==== Sys2Proof/Machine/Keypad.lean ====
section
/-! DEFINITION. The meanings of the KP family (spec 40_keypad.md). -/

namespace Sys2Proof.Machine

/-- KP.PRESSED_KEY (40_keypad.md R73). A command is accepted only when `kp_pc = IDLE` (30_encoding.md R59); else it
waits and nothing changes (assumption log 13). -/
def execKpPressedKey (s : State) : Host.Outcome State Fault Refusal :=
  .next { s with kp := if s.kp.pc = .idle then pressedKey s.kp else s.kp }

/-- KP.SCAN (40_keypad.md R70). -/
def execKpScan (s : State) : Host.Outcome State Fault Refusal := .next { s with kp := kpScan s.kp }

/-- KP.DECODE (40_keypad.md R71). -/
def execKpDecode (s : State) : Host.Outcome State Fault Refusal := .next { s with kp := kpAt s.kp .decode }

/-- KP.EDGE (40_keypad.md R72). -/
def execKpEdge (s : State) : Host.Outcome State Fault Refusal := .next { s with kp := kpAt s.kp .edge }

end Sys2Proof.Machine
end

