-- ==== Sys2Proof/Machine/LcdDriver.lean ====
section
/-! DEFINITION. The meanings of the LCD family (spec 42_lcd_driver.md). -/

namespace Sys2Proof.Machine

/-- LCD.TRY_NEW (42_lcd_driver.md R100). A command is accepted only when `lcd_pc = IDLE` (30_encoding.md R60); else it
waits and nothing changes (assumption log 13). -/
def execLcdTryNew (addr : Addr) (s : State) : Host.Outcome State Fault Refusal :=
  .next { s with lcd := if s.lcd.pc = .idle then tryNew s.cfg addr s.lcd else s.lcd }

/-- LCD.WRITE_TEXT (42_lcd_driver.md R102); accepted as LCD.TRY_NEW is. -/
def execLcdWriteText (text : List Byte) (s : State) : Host.Outcome State Fault Refusal :=
  .next { s with lcd := if s.lcd.pc = .idle then writeText s.cfg text s.lcd else s.lcd }

end Sys2Proof.Machine
end

