-- ==== Sys2Proof/Machine/NibbleWriter.lean ====
section
/-! DEFINITION. The meanings of the NW family and of the bus byte forms (spec 41_nibble_writer.md, 30_encoding.md section 2). -/

namespace Sys2Proof.Machine

/-- NW.PULSE (41_nibble_writer.md R90, R93), run where the sequencer stands (assumption log 12). -/
def execNwPulse (payload flags : Byte) (s : State) : Host.Outcome State Fault Refusal :=
  .next { s with lcd := (runActs (pulseActs s.cfg s.lcd.pc.pulseSite payload flags) s.lcd).2 }

/-- NW.SEND_CHAR (41_nibble_writer.md R91, R93), run where the sequencer stands (assumption log 12). -/
def execNwSendChar (c : Byte) (s : State) : Host.Outcome State Fault Refusal :=
  .next { s with lcd := (runActs (charActs s.cfg s.lcd.pc.charSite c) s.lcd).2 }

/-- BUS.ASSERT_CMD: the bus write of a command's ASSERT byte (30_encoding.md R53, 20_memory.md R36; assumption log 11). -/
def execBusAssertCmd (payload : Byte) (s : State) : Host.Outcome State Fault Refusal :=
  .next { s with lcd := (i2cWrite (assertByte payload (cmdFlags s.cfg)) s.lcd).2 }

/-- BUS.ASSERT_CHAR: the bus write of a character nibble's ASSERT byte (30_encoding.md R53, R58; assumption log 11). -/
def execBusAssertChar (nib : Byte) (s : State) : Host.Outcome State Fault Refusal :=
  .next { s with lcd := (i2cWrite (assertByte nib (charFlags s.cfg)) s.lcd).2 }

/-- BUS.RELEASE: the bus write of the RELEASE byte (30_encoding.md R54; assumption log 11). -/
def execBusRelease (s : State) : Host.Outcome State Fault Refusal :=
  .next { s with lcd := (i2cWrite (releaseByte s.cfg) s.lcd).2 }

end Sys2Proof.Machine
end

