-- ==== Sys2Proof/Machine/Dispatch.lean ====
section
/-! DEFINITION. The dispatch: one arm per instruction, each one call of its meaning. -/

namespace Sys2Proof.Machine

def exec (i : Instr) (s : State) : Host.Outcome State Fault Refusal :=
  match i with
  | .kpPressedKey => Sys2Proof.Machine.execKpPressedKey s
  | .lcdTryNew addr => Sys2Proof.Machine.execLcdTryNew addr s
  | .lcdWriteText text => Sys2Proof.Machine.execLcdWriteText text s
  | .kpScan => Sys2Proof.Machine.execKpScan s
  | .kpDecode => Sys2Proof.Machine.execKpDecode s
  | .kpEdge => Sys2Proof.Machine.execKpEdge s
  | .nwPulse payload flags => Sys2Proof.Machine.execNwPulse payload flags s
  | .nwSendChar c => Sys2Proof.Machine.execNwSendChar c s
  | .busAssertCmd payload => Sys2Proof.Machine.execBusAssertCmd payload s
  | .busAssertChar nib => Sys2Proof.Machine.execBusAssertChar nib s
  | .busRelease => Sys2Proof.Machine.execBusRelease s

end Sys2Proof.Machine
end

