-- ==== Sys2Proof/Machine/Sequencer.lean ====
section
/-! DEFINITION. How an agent gets its next instruction: the command ports, the turns of the schedule, and placing a table word (spec 30_encoding.md section 4, 20_memory.md R44). -/

namespace Sys2Proof.Machine

/-- Who moves now: the schedule's next entry, or a free value (20_memory.md R44; assumption log 8). -/
def State.turn (s : State) : Turn :=
  match s.turns with
  | t :: _ => t
  | [] => Config.freeTurn s.turnFree

/-- The state after the turn has been taken from the schedule. -/
def State.pastTurn (s : State) : State :=
  match s.turns with
  | _ :: ts => { s with turns := ts }
  | [] => { s with turnFree := s.turnFree + 1 }

/-- The KP port with the bytes of a command taken (30_encoding.md R59). -/
def State.withKpPort (rest : List Byte) (s : State) : State := { s with kp := { s.kp with port := rest } }

/-- The LCD port with the bytes of a command taken (30_encoding.md R60). -/
def State.withLcdPort (rest : List Byte) (s : State) : State := { s with lcd := { s.lcd with port := rest } }

/-- KP moves: idle, it takes the next command of its port and runs it whole, Refused if reserved (30_encoding.md R59,
R62, 40_keypad.md R80); busy, it takes one action of the operation in progress. -/
def serveKp (s : State) : Host.Outcome State Fault Refusal :=
  if s.kp.pc = .idle then
    match decode s.cfg .kp s.kp.port with
    | .instr i rest => exec i (s.withKpPort rest)
    | .reserved _ rest => .next { s with kp := kpRefuse (s.withKpPort rest).kp }
    | .incomplete => .next s
  else .next { s with kp := kpAdvance s.kp }

/-- LCD moves: idle, it takes the next command of its port and runs it whole, Refused if reserved (30_encoding.md R60,
R62); busy, it takes one step of the operation in progress. -/
def serveLcd (s : State) : Host.Outcome State Fault Refusal :=
  if s.lcd.pc = .idle then
    match decode s.cfg .lcd s.lcd.port with
    | .instr i rest => exec i (s.withLcdPort rest)
    | .reserved _ rest => .next { s with lcd := lcdRefuse (s.withLcdPort rest).lcd }
    | .incomplete => .next s
  else .next { s with lcd := lcdAdvance s.cfg s.lcd }

/-- KP accepts the command at the head of its port (30_encoding.md R59, R62). -/
def kpAccept (k : Kp) : Kp :=
  match decodeKp k.port with
  | .instr _ rest => kpBegin { k with port := rest }
  | .reserved _ rest => kpRefuse { k with port := rest }
  | .incomplete => k

/-- LCD accepts the command at the head of its port (30_encoding.md R60, R62), on an idle sequencer whatever `busHung`
says: DESIGN CHOICE, no run reaches an idle LCD with a hung transaction (assumption log 28). -/
def lcdAccept (cfg : Config) (l : Lcd) : Lcd :=
  match decodeLcd cfg l.port with
  | .instr (.lcdTryNew addr) rest => beginTryNew addr { l with port := rest }
  | .instr (.lcdWriteText text) rest => beginWriteText text { l with port := rest }
  | .instr _ _ => l
  | .reserved _ rest => lcdRefuse { l with port := rest }
  | .incomplete => l

/-- One event of KP: accept a command, or take one action (10_state.md R17). -/
def kpEvent (k : Kp) : Kp := if k.pc = .idle then kpAccept k else kpAdvance k

/-- One event of LCD: accept a command, or take one step (10_state.md R22). -/
def lcdEvent (cfg : Config) (l : Lcd) : Lcd := if l.pc = .idle then lcdAccept cfg l else lcdAdvance cfg l

/-- What happens in a turn (20_memory.md R44, 70_reset_and_hazards.md R144). -/
def takeTurn (t : Turn) (s : State) : Host.Outcome State Fault Refusal :=
  match t with
  | .kp => serveKp s
  | .lcd => serveLcd s
  | .kpEvent => .next { s with kp := kpEvent s.kp }
  | .lcdEvent => .next { s with lcd := lcdEvent s.cfg s.lcd }
  | .rst => .next s.rst

/-- The state in which the next step fetches and runs exactly `i`: a host command's bytes at the head of its port, its
agent idle and in turn; a bus byte form as the write of the position the LCD sequencer stands at, an ASSERT byte of a
command in the pulse of FS4, which every handshake has (assumption logs 9, 11). An internal procedure has no bytes. -/
def State.place (s : State) (i : Instr) : State :=
  let bs := (encode defaultConfig i).getD []
  let kpNext : State := { s with kp := { s.kp with pc := .idle, port := bs ++ s.kp.port }, turns := .kp :: s.turns }
  let lcdNext : State :=
    { s with lcd := { s.lcd with pc := .idle, busHung := false, port := bs ++ s.lcd.port }, turns := .lcd :: s.turns }
  let busNext (pc : LcdPc) (st : LcdState) (text : List Byte) (cfg : Config) : State :=
    { s with
      cfg := cfg
      lcd := { s.lcd with pc := pc, busHung := false, state := st, text := text }
      turns := .lcdEvent :: s.turns }
  match i with
  | .kpPressedKey => kpNext
  | .lcdTryNew _ => lcdNext
  | .lcdWriteText _ => lcdNext
  | .busAssertCmd payload => busNext (.init (1 + 4 * s.cfg.nFs8)) .uninit [] { s.cfg with fs4 := payload }
  | .busAssertChar nib => busNext (.text 0 .hi 0) .ready [nib] s.cfg
  | .busRelease => busNext (.init 3) .uninit [] s.cfg
  | .kpScan => s
  | .kpDecode => s
  | .kpEdge => s
  | .nwPulse _ _ => s
  | .nwSendChar _ => s

/-- A table word that is no instruction: its bytes stand at the head of the LCD port, where it is Refused. -/
def State.placeBytes (s : State) (bs : List Byte) : State :=
  { s with lcd := { s.lcd with pc := .idle, busHung := false, port := bs ++ s.lcd.port }, turns := .lcd :: s.turns }

end Sys2Proof.Machine
end

