-- ==== Sys2Proof/Machine/Step.lean ====
section
/-! DEFINITION. One step of the machine, and placing a table word where the next step fetches it. -/

namespace Sys2Proof.Machine

/-- One step: the schedule says who moves, and that agent moves (20_memory.md R44, 60_exceptions.md R132). -/
def step (s : State) : Host.Outcome State Fault Refusal := takeTurn s.turn s.pastTurn

/-- `s` with the table word `w` placed so that the very next step fetches and runs it (assumption log 9). -/
def State.withFetchWord (s : State) (nbits w : Nat) : State :=
  match decodeTableWord nbits w with
  | some i => s.place i
  | none => s.placeBytes (tableBytes nbits w)

end Sys2Proof.Machine
end

