-- ==== Sys2Proof/Safety.lean ====
section
/-! DEFINITION. The terms claims use: what the environment will answer, the histories the spec lists, the invariants of a safe run. Written from the spec's lists, not from the machine's step lists. -/

namespace Sys2Proof.Machine

/-! What the environment will answer. -/

/-- The answer to the `i`-th coming column read, counting from 0: scripted, or a free value (20_memory.md R35). -/
def Kp.answer (k : Kp) (i : Nat) : Bool :=
  match k.colAnswers[i]? with
  | some v => v
  | none => Config.freeColumn (k.colFree + (i - k.colAnswers.length))

/-- KP after `n` column reads have been answered. -/
def Kp.answered (k : Kp) (n : Nat) : Kp :=
  { k with colAnswers := k.colAnswers.drop n, colFree := k.colFree + (n - k.colAnswers.length) }

/-- The outcome of the `i`-th coming bus write, counting from 0: scripted, or a free value (20_memory.md R36). -/
def Lcd.answer (l : Lcd) (i : Nat) : BusAnswer :=
  match l.busAnswers[i]? with
  | some a => a
  | none => Config.freeBus (l.busFree + (i - l.busAnswers.length))

/-- LCD after `n` bus writes have been answered. -/
def Lcd.answered (l : Lcd) (n : Nat) : Lcd :=
  { l with busAnswers := l.busAnswers.drop n, busFree := l.busFree + (n - l.busAnswers.length) }

/-- The next `n` bus writes all complete with Ok. -/
def Lcd.allOk (l : Lcd) (n : Nat) : Prop := ∀ i, i < n → l.answer i = .ok

/-- `n` steps of the machine. -/
def run (n : Nat) (s : State) : Host.Outcome State Fault Refusal := Host.Core.run Sys2Proof.core n s

/-! What one keypad call sees and reports. -/

/-- The grid of the next scan: cell `(r, c)` is answer `4*r + c` (20_memory.md R33, 40_keypad.md R70). -/
def answeredGrid (k : Kp) : Grid := Vector.ofFn fun r => Vector.ofFn fun c => k.answer (4 * r.val + c.val)

/-- The 24 pin events of a scan that reads the grid `g` (40_keypad.md R70). -/
def scanEvents (g : Grid) : List KpEvent :=
  indices.flatMap fun r => .rowSet r true :: (indices.map fun c => .colSample c (g.at r c)) ++ [.rowSet r false]

/-- The results of calls with these candidates, `before` being the last reported key before the first (40_keypad.md R75). -/
def reports : Option Key → List (Option Key) → List (Option Key)
  | _, [] => []
  | before, c :: cs => (if c = before then none else c) :: reports c cs

/-- The last of some candidates, or the key reported before them (40_keypad.md R75). -/
def lastReported : Option Key → List (Option Key) → Option Key
  | before, [] => before
  | _, c :: cs => lastReported c cs

/-- The candidates of the next `n` scans, one after another. -/
def candidates (k : Kp) (n : Nat) : List (Option Key) :=
  (List.range n).map fun i => decodeGrid (answeredGrid (k.answered (16 * i)))

/-! The bus histories the spec lists. -/

/-- The four events of a pulse that completes (41_nibble_writer.md R90). -/
def pulseEvents (cfg : Config) (a : Addr) (payload flags : Byte) : List LcdEvent :=
  [.busWrite a (payload ||| flags) .ok, .delay 1, .busWrite a cfg.backlightOn .ok, .delay 5]

/-- The eight events of a character that is sent whole (41_nibble_writer.md R91). -/
def charEvents (cfg : Config) (a : Addr) (c : Byte) : List LcdEvent :=
  pulseEvents cfg a (c &&& 0xF0) (cfg.displayOn ||| cfg.backlightOn ||| cfg.textFlags)
    ++ pulseEvents cfg a ((c <<< 4) &&& 0xF0) (cfg.displayOn ||| cfg.backlightOn ||| cfg.textFlags)

/-- The events of a text that is sent whole (42_lcd_driver.md R102). -/
def textEvents (cfg : Config) (a : Addr) (text : List Byte) : List LcdEvent := text.flatMap (charEvents cfg a)

/-- The events of a handshake that completes, `INIT_SEQ` (42_lcd_driver.md R100, R101): the power-on delay, `N_FS8` pulses
of FS8 and one of FS4. -/
def handshakeEvents (cfg : Config) (a : Addr) : List LcdEvent :=
  .delay 80
    :: ((List.replicate cfg.nFs8 cfg.fs8).flatMap fun b => pulseEvents cfg a b (cfg.displayOn ||| cfg.backlightOn))
    ++ pulseEvents cfg a cfg.fs4 (cfg.displayOn ||| cfg.backlightOn)

/-- The history that ends at event `n`, a bus write that failed (42_lcd_driver.md R104). -/
def failedAt (es : List LcdEvent) (n : Nat) : List LcdEvent :=
  es.take n ++
    match es[n]? with
    | some (.busWrite a b _) => [.busWrite a b .busError]
    | _ => []

/-- The milliseconds of delay in a history (70_reset_and_hazards.md R165). -/
def delaySum : List LcdEvent → Nat
  | [] => 0
  | .delay n :: es => n + delaySum es
  | .busWrite _ _ _ :: es => delaySum es

/-- The number of bus writes in a history. -/
def writeCount : List LcdEvent → Nat
  | [] => 0
  | .delay _ :: es => writeCount es
  | .busWrite _ _ _ :: es => writeCount es + 1

/-- The (nibble, low control bits) pairs of a text at the far side (20_memory.md R48, 30_encoding.md R57). -/
def textNibbles (cfg : Config) (text : List Byte) : List (Nibble × Nibble) :=
  text.flatMap fun c =>
    [(c.extractLsb' 4 4, (cfg.displayOn ||| cfg.backlightOn ||| cfg.textFlags).extractLsb' 0 4),
     (c.extractLsb' 0 4, (cfg.displayOn ||| cfg.backlightOn ||| cfg.textFlags).extractLsb' 0 4)]

/-- The (nibble, low bits) pair of a handshake command at the far side (20_memory.md R48, 30_encoding.md R53). -/
def commandNibble (cfg : Config) (payload : Byte) : Nibble × Nibble :=
  (payload.extractLsb' 4 4, (payload ||| (cfg.displayOn ||| cfg.backlightOn)).extractLsb' 0 4)

/-! The invariant of KP (10_state.md R18). -/

/-- The levels of the row lines after some pin events, from all low. -/
def rowLevels (es : List KpEvent) : BitVec 4 :=
  es.foldl
    (fun rows e =>
      match e with
      | .rowSet r true => rows ||| 1#4 <<< r.val
      | .rowSet r false => rows &&& ~~~(1#4 <<< r.val)
      | .colSample _ _ => rows)
    0

/-- One pin event of a disciplined scan: a row goes high only when all are low, low only when it is the one high row,
and a column is sampled only while exactly one row is high; `none` when the discipline is broken (10_state.md R18). -/
def rowStep (rows : Option (BitVec 4)) (e : KpEvent) : Option (BitVec 4) :=
  match rows, e with
  | none, _ => none
  | some rows, .rowSet r true => if rows = 0 then some (1#4 <<< r.val) else none
  | some rows, .rowSet r false => if rows = 1#4 <<< r.val then some 0 else none
  | some rows, .colSample _ _ => if rows = 1 ∨ rows = 2 ∨ rows = 4 ∨ rows = 8 then some rows else none

/-- The row levels after a disciplined history, or `none`. -/
def replayRows (es : List KpEvent) : Option (BitVec 4) := es.foldl rowStep (some 0)

/-- The row levels at a position, before its action (10_state.md R17, R18). -/
def rowsAt : KpPc → BitVec 4
  | .idle => 0
  | .rowHi _ => 0
  | .sample r _ => 1#4 <<< r.val
  | .rowLo r => 1#4 <<< r.val
  | .decode => 0
  | .edge => 0

/-- KP is safe: the row lines are as the position says, and the history obeys the discipline (10_state.md R18). -/
abbrev Kp.Inv (k : Kp) : Prop := k.rowOut = rowsAt k.pc ∧ replayRows k.events = some k.rowOut

/-! The invariant of LCD (41_nibble_writer.md R90, R92; 10_state.md R20, R22). -/

/-- Where a history stands: nothing done yet, or in the enable pulse: between pulses, owing the 1 ms after an ASSERT,
owing the RELEASE, owing the 5 ms after it (42_lcd_driver.md R100, 41_nibble_writer.md R90). -/
inductive Phase where
  | fresh
  | quiet
  | asserted
  | strobed
  | released
  deriving DecidableEq, Repr

/-- One event of a disciplined history at address `a`: the 80 ms come first and once, every byte goes through a pulse, with both control bits in the
ASSERT byte, the backlight bit alone in the RELEASE byte, and the full delays; a failed write ends the pulse
(42_lcd_driver.md R100; 41_nibble_writer.md R90, R92, R93; 10_state.md R21, R23). `none` when the discipline is broken. -/
def phaseStep (cfg : Config) (a : Addr) (p : Option Phase) (e : LcdEvent) : Option Phase :=
  match p, e with
  | some .fresh, .delay n => if n = 80 then some .quiet else none
  | some .quiet, .busWrite a' b o =>
    if a' = a ∧ b &&& cfg.displayOn = cfg.displayOn ∧ b &&& cfg.backlightOn = cfg.backlightOn then
      match o with
      | .ok => some .asserted
      | .busError => some .quiet
    else none
  | some .asserted, .delay n => if n = 1 then some .strobed else none
  | some .strobed, .busWrite a' b o =>
    if a' = a ∧ b = cfg.backlightOn then
      match o with
      | .ok => some .released
      | .busError => some .quiet
    else none
  | some .released, .delay n => if n = 5 then some .quiet else none
  | _, _ => none

/-- Where a disciplined history stands, or `none`. -/
def replayBus (cfg : Config) (a : Addr) (es : List LcdEvent) : Option Phase :=
  es.foldl (phaseStep cfg a) (some .fresh)

/-- The phase of step `s` of a pulse, before it. -/
def stepPhase (s : Fin 4) : Phase :=
  match s with
  | 0 => .quiet
  | 1 => .asserted
  | 2 => .strobed
  | 3 => .released

/-- The phase at a position, before its step; an idle driver that has had no handshake has done nothing (10_state.md R20,
R22, 42_lcd_driver.md R101). -/
def phaseAt (state : LcdState) : LcdPc → Phase
  | .idle => if state = .uninit then .fresh else .quiet
  | .init i => if i = 0 then .fresh else stepPhase (Fin.ofNat 4 (i - 1))
  | .text _ _ s => stepPhase s

/-- The positions whose step is a bus write (42_lcd_driver.md R101, 41_nibble_writer.md R90). -/
def isWritePos : LcdPc → Bool
  | .idle => false
  | .init i => i % 2 == 1
  | .text _ _ s => s.val % 2 == 0

/-- The position and the lifecycle fit together (10_state.md R20, R22). -/
def positionFits (cfg : Config) (l : Lcd) : Bool :=
  match l.pc with
  | .idle => l.text == [] && !l.busHung
  | .init i => l.text == [] && l.state == .uninit && decide (i < initLength cfg)
  | .text j _ _ => decide (j < l.text.length) && l.state == .ready

/-- LCD is safe: the history obeys the pulse discipline and stands where the position says, position and lifecycle fit,
and only a bus write can hang (60_exceptions.md R133). -/
abbrev Lcd.Inv (cfg : Config) (l : Lcd) : Prop :=
  replayBus cfg l.addr l.events = some (phaseAt l.state l.pc) ∧ positionFits cfg l = true ∧ (l.busHung = true → isWritePos l.pc = true)

/-- The invariant of the machine. -/
abbrev State.Inv (s : State) : Prop := s.kp.Inv ∧ s.lcd.Inv s.cfg

end Sys2Proof.Machine
end

