-- ==== Sys2Proof/Certificates/Slice0/Obligations.lean ====
section
/-! DEFINITION. The statements about the model. -/

open Sys2Proof Sys2Proof.Machine

/-! Encoding. -/

/-- Encode, then decode: every well-formed instruction that has bytes is read back with every operand, whatever follows;
an internal procedure has none (30_encoding.md R53, R54, R59, R60, R63). One exception: where LCD_TEXT_FLAGS is 0 the two
ASSERT forms are the same byte, and that the decoder then reads the command's is the model's choice (assumption log 11). -/
def Obligations.DecodeOfEncodeGivesTheInstruction : Prop :=
  ∀ (cfg : Config) (i : Instr) (rest : List Byte), cfg.wf = true → i.wf cfg = true →
    (i.port = none ↔ encode cfg i = none) ∧
    ∀ p bs, i.port = some p → encode cfg i = some bs →
      (((∀ nib, i = .busAssertChar nib → cfg.textFlags ≠ 0) → decode cfg p (bs ++ rest) = .instr i rest) ∧
        ∀ nib, i = .busAssertChar nib → cfg.textFlags = 0 →
          decode cfg p (bs ++ rest) = .instr (.busAssertCmd nib) rest)

/-- Decode, then encode: what a decoder reads is a well-formed instruction of that port, and its bytes are exactly those
taken from the stream (30_encoding.md section 4). -/
def Obligations.EncodeOfDecodeGivesTheBytes : Prop :=
  ∀ (cfg : Config) (p : Port) (bs : List Byte) (i : Instr) (rest : List Byte), cfg.wf = true →
    decode cfg p bs = .instr i rest →
      i.wf cfg = true ∧ i.port = some p ∧ ∃ w, encode cfg i = some w ∧ bs = w ++ rest

/-- Words written out from the spec's encodings decode to their instructions (95_test_vectors.md V-ENC-1, V-ENC-3,
V-ENC-7; opcode_table.json for the bus bytes). -/
def Obligations.WordsOfTheTableDecode : Prop :=
  decode defaultConfig .kp [0b00000001] = .instr .kpPressedKey [] ∧
  decode defaultConfig .lcd [0b00010000, 0b00100111] = .instr (.lcdTryNew 0b0100111) [] ∧
  decode defaultConfig .lcd [0b00010001, 0b00000010, 0b01001000, 0b01101001]
    = .instr (.lcdWriteText [0b01001000, 0b01101001]) [] ∧
  decode defaultConfig .bus [0b00111100] = .instr (.busAssertCmd 0b00110000) [] ∧
  decode defaultConfig .bus [0b01001101] = .instr (.busAssertChar 0b01000000) [] ∧
  decode defaultConfig .bus [0b00001000] = .instr .busRelease []

/-! Steps. -/

/-- A step runs the decoded instruction: an idle agent in turn runs the command at the head of its port, past its bytes
(30_encoding.md R59, R60); a KP sequencer at DECODE or EDGE runs that procedure and moves on (40_keypad.md R73). That the
schedule gives turns of a whole operation (assumption log 8) and that a turn `kp` lets a busy agent take one action
(assumption log 21) are the model's choices. -/
def Obligations.StepRunsTheDecodedInstruction : Prop :=
  (∀ (s : State) (i : Instr) (rest : List Byte), s.turn = .kp → s.kp.pc = .idle →
    decode s.cfg .kp s.kp.port = .instr i rest → step s = exec i (s.pastTurn.withKpPort rest)) ∧
  (∀ (s : State) (i : Instr) (rest : List Byte), s.turn = .lcd → s.lcd.pc = .idle →
    decode s.cfg .lcd s.lcd.port = .instr i rest → step s = exec i (s.pastTurn.withLcdPort rest)) ∧
  (∀ s : State, s.turn = .kp ∨ s.turn = .kpEvent → s.kp.pc = .decode →
    ∃ u, exec .kpDecode s.pastTurn = .next u ∧ step s = .next { u with kp := { u.kp with pc := .edge } }) ∧
  (∀ s : State, s.turn = .kp ∨ s.turn = .kpEvent → s.kp.pc = .edge →
    ∃ u, exec .kpEdge s.pastTurn = .next u ∧ step s = .next { u with kp := kpReturn u.kp })

/-- At a position whose step is a bus write, the LCD sequencer runs the bus byte form of that position: the handshake's
pulses before number N_FS8 send FS8 and that one sends FS4, a character sends its high nibble, then its low one, and every
second write is RELEASE; it moves on when the write answers Ok. The bytes and their order are 42_lcd_driver.md R101 and
41_nibble_writer.md R90, R91; that the byte forms run as instructions with the position moved after them (assumption log
11) and that a turn `lcd` lets a busy agent take one step (assumption log 21) are the model's choices. -/
def Obligations.WritePositionsRunTheBusByteForms : Prop :=
  ∀ s : State, s.turn = .lcd ∨ s.turn = .lcdEvent → s.lcd.busHung = false →
    ∀ i : Instr,
      ((∃ k, k < s.cfg.nFs8 ∧ s.lcd.pc = .init (4 * k + 1) ∧ i = .busAssertCmd s.cfg.fs8 ∨
          s.lcd.pc = .init (4 * s.cfg.nFs8 + 1) ∧ i = .busAssertCmd s.cfg.fs4 ∨
            k ≤ s.cfg.nFs8 ∧ s.lcd.pc = .init (4 * k + 3) ∧ i = .busRelease) ∨
        ∃ j h q c, s.lcd.pc = .text j h q ∧ s.lcd.text[j]? = some c ∧
          (q = 0 ∧ h = .hi ∧ i = .busAssertChar (c &&& 0xF0) ∨
            q = 0 ∧ h = .lo ∧ i = .busAssertChar ((c <<< 4) &&& 0xF0) ∨ q = 2 ∧ i = .busRelease)) →
      ∃ u, exec i s.pastTurn = .next u ∧
        step s = .next (if s.lcd.answer 0 = .ok then { u with lcd := lcdMoveOn s.cfg u.lcd } else u)

/-- Nothing stops the machine: every step answers a next state, from every state. -/
def Obligations.EveryStepAnswersANextState : Prop := ∀ s : State, ∃ t, step s = .next t

/-- Reserved and out-of-lifecycle commands are Refused, and that is all that happens: no state, no event, and of a
reserved opcode byte no operand is taken (60_exceptions.md R128, 30_encoding.md R62, 42_lcd_driver.md R103). That the
other Refused commands are taken from the port with their operand bytes is the model's reading (assumption log 14), and
that a text of more than TEXT_MAX characters is Refused is the model's choice (assumption log 27). -/
def Obligations.RefusedCommandsHaveNoEffect : Prop :=
  (∀ (s : State) (b : Byte) (rest : List Byte), s.turn = .kp ∨ s.turn = .kpEvent → s.kp.pc = .idle →
    s.kp.port = b :: rest → b ≠ 0x01 →
      step s = .next { s.pastTurn with kp := { s.kp with port := rest, results := s.kp.results ++ [.refused] } }) ∧
  (∀ (s : State) (b : Byte) (rest : List Byte), s.turn = .lcd ∨ s.turn = .lcdEvent → s.lcd.pc = .idle →
    s.lcd.port = b :: rest → b ≠ 0x10 → b ≠ 0x11 →
      step s = .next { s.pastTurn with lcd := { s.lcd with port := rest, results := s.lcd.results ++ [.refused] } }) ∧
  (∀ (s : State) (a : Byte) (rest : List Byte), s.turn = .lcd ∨ s.turn = .lcdEvent → s.lcd.pc = .idle →
    s.lcd.port = 0x10 :: a :: rest → a.getLsbD 7 = true →
      step s = .next { s.pastTurn with lcd := { s.lcd with port := rest, results := s.lcd.results ++ [.refused] } }) ∧
  (∀ (s : State) (a : Byte) (rest : List Byte), s.turn = .lcd ∨ s.turn = .lcdEvent → s.lcd.pc = .idle →
    s.lcd.state ≠ .uninit → s.lcd.port = 0x10 :: a :: rest →
      step s = .next { s.pastTurn with lcd := { s.lcd with port := rest, results := s.lcd.results ++ [.refused] } }) ∧
  (∀ (s : State) (n : Byte) (text rest : List Byte), s.turn = .lcd ∨ s.turn = .lcdEvent → s.lcd.pc = .idle →
    s.lcd.state ≠ .ready ∨ s.cfg.textMax < n.toNat → text.length = n.toNat → s.lcd.port = 0x11 :: n :: (text ++ rest) →
      step s = .next { s.pastTurn with lcd := { s.lcd with port := rest, results := s.lcd.results ++ [.refused] } })

/-- A busy agent takes no command: the operation offered waits and the port keeps its bytes (30_encoding.md R59, R60; that
`exec` of a command offered to a busy agent changes nothing is the model's reading, assumption log 13). -/
def Obligations.BusyAgentTakesNoCommand : Prop :=
  (∀ s t : State, s.kp.pc ≠ .idle → s.turn = .kp ∨ s.turn = .kpEvent →
    exec .kpPressedKey s = .next s ∧ (step s = .next t → t.kp.port = s.kp.port)) ∧
  (∀ (s t : State) (a : Addr) (text : List Byte), s.lcd.pc ≠ .idle → s.turn = .lcd ∨ s.turn = .lcdEvent →
    exec (.lcdTryNew a) s = .next s ∧ exec (.lcdWriteText text) s = .next s ∧
      (step s = .next t → t.lcd.port = s.lcd.port))

/-! KP. -/

/-- KP.SCAN completes from every state: the 24 pin events in order, each cell the answer to its own read, all rows low at
the end, and nothing else changed but the position and the environment's answers consumed. -/
def Obligations.ScanStrobesRowsAndRecordsTheGrid : Prop :=
  ∀ s : State, ∃ p : KpPc,
    exec .kpScan s = .next { s with
      kp := { s.kp.answered 16 with
        rowOut := 0
        grid := answeredGrid s.kp
        events := s.kp.events ++ scanEvents (answeredGrid s.kp)
        pc := p } }

/-- KP.DECODE completes from every state: no cell set gives no key, else the last set cell in row-major order wins. -/
def Obligations.DecodeTakesTheLastPressedCell : Prop :=
  ∀ s : State, ∃ (p : KpPc) (c : Option Key),
    exec .kpDecode s = .next { s with kp := { s.kp with candidate := c, pc := p } } ∧
      (((∀ r k : Fin 4, s.kp.grid.at r k = false) ∧ c = none) ∨
        ∃ r k : Fin 4, s.kp.grid.at r k = true ∧ c = some (lutRead r k) ∧
          ∀ r' k' : Fin 4, 4 * r.val + k.val < 4 * r'.val + k'.val → s.kp.grid.at r' k' = false)

/-- KP.DECODE as a priority encoder over the grid word, highest index first, followed by the table, whose keys in linear
order are listed; the spec derives this closed form itself (40_keypad.md R79). -/
def Obligations.DecodeIsAPriorityEncoder : Prop :=
  ∀ s : State, ∃ (p : KpPc) (c : Option Key),
    exec .kpDecode s = .next { s with kp := { s.kp with candidate := c, pc := p } } ∧
      (∀ r k : Fin 4, s.kp.grid.word.getLsbD (4 * r.val + k.val) = s.kp.grid.at r k) ∧
      (s.kp.grid.word = 0 → c = none) ∧
      ∀ i : Fin 16, s.kp.grid.word.getLsbD i.val = true → (∀ j : Fin 16, i < j → s.kp.grid.word.getLsbD j.val = false) →
        c = [Key.One, .Two, .Three, .A, .Four, .Five, .Six, .B, .Seven, .Eight, .Nine, .C, .Wildcard, .Zero, .Pound, .D][i.val]?

/-- KP.EDGE completes from every state: an unchanged candidate is suppressed and changes nothing, a changed one is stored
and returned. -/
def Obligations.EdgeReportsOnlyAChange : Prop :=
  ∀ s : State, ∃ p : KpPc,
    (s.kp.candidate = s.kp.lastReportedKey →
      exec .kpEdge s = .next { s with kp := { s.kp with ret := none, pc := p } }) ∧
    (s.kp.candidate ≠ s.kp.lastReportedKey →
      exec .kpEdge s = .next { s with
        kp := { s.kp with lastReportedKey := s.kp.candidate, ret := s.kp.candidate, pc := p } })

/-- KP.PRESSED_KEY, issued to an idle KP, completes: it scans, decodes, reports a change only, and is idle again; nothing
else changes. -/
def Obligations.PressedKeyScansDecodesAndReports : Prop :=
  ∀ (s : State) (c out : Option Key), s.kp.pc = .idle → c = decodeGrid (answeredGrid s.kp) →
    out = (if c = s.kp.lastReportedKey then none else c) →
      exec .kpPressedKey s = .next { s with
        kp := { s.kp.answered 16 with
          rowOut := 0
          grid := answeredGrid s.kp
          candidate := c
          lastReportedKey := c
          ret := out
          events := s.kp.events ++ scanEvents (answeredGrid s.kp)
          results := s.kp.results ++ [.key out]
          pc := .idle } }

/-- The reporting law over a sequence of calls: call `i` returns its candidate if that differs from the one before, and
None otherwise; after them the last candidate is stored. -/
def Obligations.CallsReportEachTransitionOnce : Prop :=
  ∀ (s : State) (n : Nat) (rest : List Byte) (ts : List Turn), s.kp.pc = .idle →
    s.kp.port = List.replicate n 0x01 ++ rest → s.turns = List.replicate n .kp ++ ts →
      ∃ t, run n s = .next t ∧
        t.kp.results = s.kp.results ++ (reports s.kp.lastReportedKey (candidates s.kp n)).map .key ∧
        t.kp.lastReportedKey = lastReported s.kp.lastReportedKey (candidates s.kp n) ∧
        t.kp.pc = .idle ∧ t.kp.port = rest ∧ t.lcd = s.lcd ∧ t.turns = ts

/-- The ideal matrix: while the switches are held, the scan's grid is the switches; so one key held alone is reported under
its legend, and no two keys share one (20_memory.md R35 is environment; R31). -/
def Obligations.IdealMatrixReportsTheKeyHeld : Prop :=
  (∀ (s : State) (sw : Grid) (rest : List Bool), s.kp.colAnswers = idealAnswers sw ++ rest →
    ∃ t, exec .kpScan s = .next t ∧ t.kp.grid = sw ∧ t.kp.colAnswers = rest) ∧
  (∀ (s : State) (r c : Fin 4) (rest : List Bool), s.kp.pc = .idle →
    s.kp.colAnswers = idealAnswers (pressed [(r, c)]) ++ rest → s.kp.lastReportedKey ≠ some (lutRead r c) →
      ∃ t, exec .kpPressedKey s = .next t ∧ t.kp.results = s.kp.results ++ [.key (some (lutRead r c))]) ∧
  (∀ r c r' c' : Fin 4, lutRead r c = lutRead r' c' → r = r' ∧ c = c')

/-- The KP sequencer advances through its fixed list in the written order, never branches, and is idle when the operation
returns (10_state.md R17; the position variable is the spec's decision D10). -/
def Obligations.KpSequencerFollowsTheFixedOrder : Prop :=
  ∀ s t : State, s.turn = .kpEvent → step s = .next t →
    (∀ rest, s.kp.pc = .idle → s.kp.port = 0x01 :: rest → t.kp.pc = .rowHi 0) ∧
    (∀ r, s.kp.pc = .rowHi r → t.kp.pc = .sample r 0) ∧
    (∀ r, s.kp.pc = .sample r 0 → t.kp.pc = .sample r 1) ∧
    (∀ r, s.kp.pc = .sample r 1 → t.kp.pc = .sample r 2) ∧
    (∀ r, s.kp.pc = .sample r 2 → t.kp.pc = .sample r 3) ∧
    (∀ r, s.kp.pc = .sample r 3 → t.kp.pc = .rowLo r) ∧
    (s.kp.pc = .rowLo 0 → t.kp.pc = .rowHi 1) ∧ (s.kp.pc = .rowLo 1 → t.kp.pc = .rowHi 2) ∧
    (s.kp.pc = .rowLo 2 → t.kp.pc = .rowHi 3) ∧ (s.kp.pc = .rowLo 3 → t.kp.pc = .decode) ∧
    (s.kp.pc = .decode → t.kp.pc = .edge) ∧
    (s.kp.pc = .edge → t.kp.pc = .idle ∧ ∃ k, t.kp.results = s.kp.results ++ [.key k])

/-- KP.PRESSED_KEY as one atomic step and as its 27 events (accept, 24 pin events, decode, edge) give the same state
(40_keypad.md R80, the spec's decision D26; the schedule is the model's, assumption log 8). -/
def Obligations.AtomicPressedKeyEqualsItsEvents : Prop :=
  ∀ (s : State) (rest : List Byte) (ts : List Turn), s.kp.pc = .idle → s.kp.port = 0x01 :: rest →
    run 27 { s with turns := List.replicate 27 .kpEvent ++ ts } = step { s with turns := .kp :: ts }

/-- In a safe run exactly one row is high at every column sample of the history, and at most one at any instant. -/
def Obligations.ExactlyOneRowHighAtEverySample : Prop :=
  ∀ s : State, s.Inv →
    (s.kp.rowOut = 0b0000 ∨ s.kp.rowOut = 0b0001 ∨ s.kp.rowOut = 0b0010 ∨ s.kp.rowOut = 0b0100 ∨ s.kp.rowOut = 0b1000) ∧
    (s.kp.pc = .idle ∨ (∃ r, s.kp.pc = .rowHi r) → s.kp.rowOut = 0b0000) ∧
    s.kp.rowOut = rowLevels s.kp.events ∧
    (∀ xs ys, s.kp.events = xs ++ ys →
      rowLevels xs = 0b0000 ∨ rowLevels xs = 0b0001 ∨ rowLevels xs = 0b0010 ∨ rowLevels xs = 0b0100 ∨
        rowLevels xs = 0b1000) ∧
    ∀ xs c v ys, s.kp.events = xs ++ .colSample c v :: ys →
      rowLevels xs = 0b0001 ∨ rowLevels xs = 0b0010 ∨ rowLevels xs = 0b0100 ∨ rowLevels xs = 0b1000

/-- In the history of a safe run, between a row going high and the next row going high, the first goes low. -/
def Obligations.EachRowIsReleasedBeforeTheNext : Prop :=
  ∀ s : State, s.Inv → ∀ xs r ys r' zs,
    s.kp.events = xs ++ .rowSet r true :: (ys ++ .rowSet r' true :: zs) → KpEvent.rowSet r false ∈ ys

/-! NW and the bus bytes. -/

/-- NW.PULSE completes where both its writes answer Ok: the four events in order to `lcd_addr`, and nothing else changed
but the position and the environment's answers consumed. -/
def Obligations.PulseIsAssertWaitReleaseWait : Prop :=
  ∀ (s : State) (payload flags : Byte), s.lcd.busHung = false → s.lcd.allOk 2 →
    ∃ p : LcdPc,
      exec (.nwPulse payload flags) s = .next { s with
        lcd := { s.lcd.answered 2 with
          events := s.lcd.events ++ pulseEvents s.cfg s.lcd.addr payload flags
          pc := p } }

/-- A failure inside a pulse ends it there, and with it the operation that called it: after the ASSERT write no delay and
no RELEASE, after the RELEASE write no delay. -/
def Obligations.PulseStopsAtTheFailingWrite : Prop :=
  ∀ (s : State) (payload flags : Byte) (st : LcdState), s.lcd.busHung = false →
    ((∃ i, s.lcd.pc = .init i) ∧ st = .failed ∨ (∃ j h q, s.lcd.pc = .text j h q) ∧ st = s.lcd.state) →
      (s.lcd.answer 0 = .busError →
        exec (.nwPulse payload flags) s = .next { s with
          lcd := { s.lcd.answered 1 with
            events := s.lcd.events ++ [.busWrite s.lcd.addr (payload ||| flags) .busError]
            results := s.lcd.results ++ [.busError]
            state := st
            text := []
            pc := .idle } }) ∧
      (s.lcd.answer 0 = .ok → s.lcd.answer 1 = .busError →
        exec (.nwPulse payload flags) s = .next { s with
          lcd := { s.lcd.answered 2 with
            events := s.lcd.events ++
              [.busWrite s.lcd.addr (payload ||| flags) .ok, .delay 1, .busWrite s.lcd.addr s.cfg.backlightOn .busError]
            results := s.lcd.results ++ [.busError]
            state := st
            text := []
            pc := .idle } })

/-- NW.SEND_CHAR completes where its four writes answer Ok: the high nibble's pulse, then the low nibble's; a failing
write ends it and the operation it belongs to, and the rest is not sent. -/
def Obligations.SendCharSendsHighThenLowNibble : Prop :=
  ∀ (s : State) (c : Byte), s.lcd.busHung = false →
    (s.lcd.allOk 4 → ∃ p : LcdPc,
      exec (.nwSendChar c) s = .next { s with
        lcd := { s.lcd.answered 4 with events := s.lcd.events ++ charEvents s.cfg s.lcd.addr c, pc := p } }) ∧
    ∀ (k : Nat) (st : LcdState), k < 4 → s.lcd.allOk k → s.lcd.answer k = .busError →
      ((∃ i, s.lcd.pc = .init i) ∧ st = .failed ∨ (∃ j h q, s.lcd.pc = .text j h q) ∧ st = s.lcd.state) →
        exec (.nwSendChar c) s = .next { s with
          lcd := { s.lcd.answered (k + 1) with
            events := s.lcd.events ++ failedAt (charEvents s.cfg s.lcd.addr c) (2 * k)
            results := s.lcd.results ++ [.busError]
            state := st
            text := []
            pc := .idle } }

/-- The two ASSERT byte forms complete where the write answers Ok: one bus write each, of the byte with the nibble in bits
7:4 and the payload's low bits ORed with the flags in bits 3:0, the flags of a character being those of a command and
LCD_TEXT_FLAGS; nothing else changes but the environment's answer consumed. The bytes are 30_encoding.md R53; that a byte
form run as an instruction is that one bus write, with the position unmoved, is the model's choice (assumption log 11). -/
def Obligations.AssertByteFormsAreOneWriteEach : Prop :=
  ∀ (s : State) (x : Byte), s.cfg.wf = true → s.lcd.busHung = false → s.lcd.answer 0 = .ok →
    ∃ cmd char : Byte,
      exec (.busAssertCmd x) s = .next { s with
        lcd := { s.lcd.answered 1 with events := s.lcd.events ++ [.busWrite s.lcd.addr cmd .ok] } } ∧
      cmd.extractLsb' 4 4 = x.extractLsb' 4 4 ∧
      cmd &&& 0x0F = (x &&& 0x0F) ||| s.cfg.displayOn ||| s.cfg.backlightOn ∧
      exec (.busAssertChar x) s = .next { s with
        lcd := { s.lcd.answered 1 with events := s.lcd.events ++ [.busWrite s.lcd.addr char .ok] } } ∧
      char.extractLsb' 4 4 = x.extractLsb' 4 4 ∧
      char &&& 0x0F = (x &&& 0x0F) ||| s.cfg.displayOn ||| s.cfg.backlightOn ||| s.cfg.textFlags

/-- BUS.RELEASE completes where the write answers Ok: one bus write of a byte that has the backlight bit, not the display-on
bit, not the extra character flags and no nibble (30_encoding.md R54; that every other bit is zero is the spec's decision
D15). That the byte form run as an instruction is that one bus write, with the position unmoved, is the model's choice
(assumption log 11). -/
def Obligations.ReleaseByteFormIsOneWrite : Prop :=
  ∀ s : State, s.cfg.wf = true → s.lcd.busHung = false → s.lcd.answer 0 = .ok →
    ∃ b : Byte,
      exec .busRelease s = .next { s with
        lcd := { s.lcd.answered 1 with events := s.lcd.events ++ [.busWrite s.lcd.addr b .ok] } } ∧
      b = s.cfg.backlightOn ∧ b &&& s.cfg.displayOn = 0 ∧ b &&& s.cfg.textFlags = 0 ∧ b &&& 0xF0 = 0

/-- The other two outcomes of a bus write (20_memory.md R36) in a form that is no host command: in a bus byte form, a
pulse and a character a write that never completes leaves the agent waiting with the events before it done
(60_exceptions.md R133), and a bus byte form that fails in an operation ends that operation (R122). A failing pulse or
character is in PulseStopsAtTheFailingWrite and SendCharSendsHighThenLowNibble, the host commands in theirs. That the
byte forms run as instructions is the model's choice (assumption log 11), and so is how a hung write is held (assumption
log 7). -/
def Obligations.BusWritesMayFailOrNeverComplete : Prop :=
  (∀ (s : State) (i : Instr) (x b : Byte) (st : LcdState), s.lcd.busHung = false →
    (i = .busAssertCmd x ∧ b = x ||| (s.cfg.displayOn ||| s.cfg.backlightOn) ∨
      i = .busAssertChar x ∧ b = x ||| (s.cfg.displayOn ||| s.cfg.backlightOn ||| s.cfg.textFlags) ∨
      i = .busRelease ∧ b = s.cfg.backlightOn) →
    ((∃ n, s.lcd.pc = .init n) ∧ st = .failed ∨ (∃ j h q, s.lcd.pc = .text j h q) ∧ st = s.lcd.state) →
      (s.lcd.answer 0 = .never → exec i s = .next { s with lcd := { s.lcd.answered 1 with busHung := true } }) ∧
      (s.lcd.answer 0 = .busError → exec i s = .next { s with
        lcd := { s.lcd.answered 1 with
          events := s.lcd.events ++ [.busWrite s.lcd.addr b .busError]
          results := s.lcd.results ++ [.busError]
          state := st
          text := []
          pc := .idle } })) ∧
  (∀ (s : State) (payload flags : Byte) (k : Nat), s.lcd.busHung = false → k < 2 → s.lcd.allOk k →
    s.lcd.answer k = .never → ∃ p : LcdPc,
      exec (.nwPulse payload flags) s = .next { s with
        lcd := { s.lcd.answered (k + 1) with
          busHung := true
          events := s.lcd.events ++ (pulseEvents s.cfg s.lcd.addr payload flags).take (2 * k)
          pc := p } }) ∧
  (∀ (s : State) (c : Byte) (k : Nat), s.lcd.busHung = false → k < 4 → s.lcd.allOk k →
    s.lcd.answer k = .never → ∃ p : LcdPc,
      exec (.nwSendChar c) s = .next { s with
        lcd := { s.lcd.answered (k + 1) with
          busHung := true
          events := s.lcd.events ++ (charEvents s.cfg s.lcd.addr c).take (2 * k)
          pc := p } })

/-- While a transaction is in flight that never completes, no other bus transaction, delay or pulse begins (20_memory.md
R42). The flag that holds the hung transaction (assumption log 7) and the byte forms and procedures run as instructions
(assumption logs 11, 12) are the model's. -/
def Obligations.NothingBeginsWhileATransactionHangs : Prop :=
  ∀ (s : State) (x y : Byte), s.lcd.busHung = true →
    exec (.busAssertCmd x) s = .next s ∧ exec (.busAssertChar x) s = .next s ∧ exec .busRelease s = .next s ∧
      exec (.nwPulse x y) s = .next s ∧ exec (.nwSendChar x) s = .next s

/-! LCD. -/

/-- LCD.TRY_NEW, issued to an idle LCD: out of UNINIT it is Refused, and so is one whose operand byte has bit 7 set (which
bytes that one takes from the port is left open here). With every write answering Ok it completes: the handshake's events
in order, the address stored, READY, Ok, idle. With a failing write everything before that write was done and nothing after
it: FAILED, BusError, idle, the address kept. Nothing else changes. The handshake has N_FS8 pulses of FS8 and one of FS4;
N_FS8 is three in the machine after reset, and its 17 events are then those listed. -/
def Obligations.TryNewRunsTheHandshakeToItsEndOrFirstFailure : Prop :=
  (∀ (s : State) (a : Addr), s.lcd.pc = .idle → s.lcd.state ≠ .uninit →
    exec (.lcdTryNew a) s = .next { s with lcd := { s.lcd with results := s.lcd.results ++ [.refused] } }) ∧
  (∀ (s : State) (b : Byte) (rest : List Byte), s.turn = .lcd ∨ s.turn = .lcdEvent → s.lcd.pc = .idle →
    s.lcd.port = 0x10 :: b :: rest → b.getLsbD 7 = true → ∃ port : List Byte,
      step s = .next { s.pastTurn with lcd := { s.lcd with port := port, results := s.lcd.results ++ [.refused] } }) ∧
  (∀ (s : State) (a : Addr), s.lcd.pc = .idle → s.lcd.state = .uninit → s.lcd.busHung = false →
    s.lcd.allOk (2 * s.cfg.nFs8 + 2) →
      exec (.lcdTryNew a) s = .next { s with
        lcd := { s.lcd.answered (2 * s.cfg.nFs8 + 2) with
          state := .ready
          addr := a
          text := []
          events := s.lcd.events ++ handshakeEvents s.cfg a
          results := s.lcd.results ++ [.ok]
          pc := .idle } }) ∧
  (∀ (s : State) (a : Addr) (k : Nat), s.lcd.pc = .idle → s.lcd.state = .uninit → s.lcd.busHung = false →
    k < 2 * s.cfg.nFs8 + 2 → s.lcd.allOk k → s.lcd.answer k = .busError →
      exec (.lcdTryNew a) s = .next { s with
        lcd := { s.lcd.answered (k + 1) with
          state := .failed
          addr := a
          text := []
          events := s.lcd.events ++ failedAt (handshakeEvents s.cfg a) (2 * k + 1)
          results := s.lcd.results ++ [.busError]
          pc := .idle } }) ∧
  State.reset.cfg.nFs8 = 3 ∧
  (∀ (cfg : Config) (a : Addr) (c8 c4 : Byte), cfg.nFs8 = 3 → c8 = cfg.fs8 ||| (cfg.displayOn ||| cfg.backlightOn) →
    c4 = cfg.fs4 ||| (cfg.displayOn ||| cfg.backlightOn) →
      handshakeEvents cfg a =
        [.delay 80,
         .busWrite a c8 .ok, .delay 1, .busWrite a cfg.backlightOn .ok, .delay 5,
         .busWrite a c8 .ok, .delay 1, .busWrite a cfg.backlightOn .ok, .delay 5,
         .busWrite a c8 .ok, .delay 1, .busWrite a cfg.backlightOn .ok, .delay 5,
         .busWrite a c4 .ok, .delay 1, .busWrite a cfg.backlightOn .ok, .delay 5])

/-- LCD.WRITE_TEXT, issued to an idle LCD: out of READY it is Refused; with all writes Ok it completes, each character
sent whole in order; with a failing write it ends there with BusError and the
driver stays READY. -/
def Obligations.WriteTextSendsEachCharacterInOrder : Prop :=
  (∀ (s : State) (text : List Byte), s.lcd.pc = .idle → s.lcd.state ≠ .ready →
    exec (.lcdWriteText text) s = .next { s with lcd := { s.lcd with results := s.lcd.results ++ [.refused] } }) ∧
  (∀ (s : State) (text : List Byte), s.lcd.pc = .idle → s.lcd.state = .ready → s.lcd.busHung = false →
    s.lcd.allOk (4 * text.length) →
      exec (.lcdWriteText text) s = .next { s with
        lcd := { s.lcd.answered (4 * text.length) with
          text := []
          events := s.lcd.events ++ textEvents s.cfg s.lcd.addr text
          results := s.lcd.results ++ [.ok]
          pc := .idle } }) ∧
  (∀ (s : State) (text : List Byte) (k : Nat), s.lcd.pc = .idle → s.lcd.state = .ready → s.lcd.busHung = false →
    k < 4 * text.length → s.lcd.allOk k → s.lcd.answer k = .busError →
      exec (.lcdWriteText text) s = .next { s with
        lcd := { s.lcd.answered (k + 1) with
          text := []
          events := s.lcd.events ++ failedAt (textEvents s.cfg s.lcd.addr text) (2 * k)
          results := s.lcd.results ++ [.busError]
          pc := .idle } })

/-- The counts the spec derives (42_lcd_driver.md R101, R102, 70_reset_and_hazards.md R165, its own inferences), of what
the block really emits: a handshake that ends Ok adds four events, two writes and 6 ms a pulse beside the 80 ms, which with
N_FS8 = 3 are 17 events, 8 writes and 104 ms; a text that ends Ok adds 8 events, 4 writes and 12 ms a character. -/
def Obligations.EventCountsAndDelaySums : Prop :=
  (∀ (s t : State) (a : Addr) (events writes ms : Nat), s.lcd.pc = .idle → s.lcd.state = .uninit → s.lcd.busHung = false →
    s.lcd.allOk (2 * s.cfg.nFs8 + 2) → exec (.lcdTryNew a) s = .next t →
    (events = 4 * s.cfg.nFs8 + 5 ∧ writes = 2 * s.cfg.nFs8 + 2 ∧ ms = 6 * s.cfg.nFs8 + 86) ∨
      (s.cfg.nFs8 = 3 ∧ events = 17 ∧ writes = 8 ∧ ms = 104) →
      t.lcd.events.length = s.lcd.events.length + events ∧ writeCount t.lcd.events = writeCount s.lcd.events + writes ∧
        delaySum t.lcd.events = delaySum s.lcd.events + ms) ∧
  (∀ (s t : State) (text : List Byte), s.lcd.pc = .idle → s.lcd.state = .ready → s.lcd.busHung = false →
    s.lcd.allOk (4 * text.length) → exec (.lcdWriteText text) s = .next t →
      t.lcd.events.length = s.lcd.events.length + 8 * text.length ∧
        writeCount t.lcd.events = writeCount s.lcd.events + 4 * text.length ∧
          delaySum t.lcd.events = delaySum s.lcd.events + 12 * text.length)

/-- The exception, seen at the position of any bus write of an operation in progress: the failed write is the last event,
the sequencer is idle at once, a handshake fails and a text leaves the lifecycle alone, the host gets BusError, nothing
else of LCD changes, and KP is unaffected. -/
def Obligations.BusErrorEndsTheOperationAtOnce : Prop :=
  ∀ (s : State) (b : Byte) (st : LcdState), s.turn = .lcd ∨ s.turn = .lcdEvent → s.lcd.busHung = false →
    stepAt s.cfg s.lcd.text s.lcd.pc = some (.write b) → s.lcd.answer 0 = .busError →
    ((∃ i, s.lcd.pc = .init i) ∧ st = .failed ∨ (∃ j h q, s.lcd.pc = .text j h q) ∧ st = s.lcd.state) →
      step s = .next { s.pastTurn with
        lcd := { s.lcd.answered 1 with
          state := st
          text := []
          events := s.lcd.events ++ [.busWrite s.lcd.addr b .busError]
          results := s.lcd.results ++ [.busError]
          pc := .idle } }

/-- A transaction that never completes: LCD.TRY_NEW and LCD.WRITE_TEXT stay at that write's position with no result, the
events before it done; from then on no turn of LCD changes anything, and KP goes on as if nothing had happened. -/
def Obligations.HungTransactionStopsLcdForEver : Prop :=
  (∀ (s : State) (a : Addr) (k : Nat), s.lcd.pc = .idle → s.lcd.state = .uninit → s.lcd.busHung = false →
    k < 2 * s.cfg.nFs8 + 2 → s.lcd.allOk k → s.lcd.answer k = .never →
      exec (.lcdTryNew a) s = .next { s with
        lcd := { s.lcd.answered (k + 1) with
          addr := a
          busHung := true
          events := s.lcd.events ++ (handshakeEvents s.cfg a).take (2 * k + 1)
          pc := .init (2 * k + 1) } }) ∧
  (∀ (s : State) (text : List Byte) (j k : Nat) (h : Half) (q : Fin 4), s.lcd.pc = .idle → s.lcd.state = .ready →
    s.lcd.busHung = false → k < 4 * text.length → s.lcd.allOk k → s.lcd.answer k = .never →
    k = 4 * j + (if h = .hi then 0 else 2) + q.val / 2 → q = 0 ∨ q = 2 →
      exec (.lcdWriteText text) s = .next { s with
        lcd := { s.lcd.answered (k + 1) with
          text := text
          busHung := true
          events := s.lcd.events ++ (textEvents s.cfg s.lcd.addr text).take (2 * k)
          pc := .text j h q } }) ∧
  (∀ s : State, s.lcd.busHung = true → s.lcd.pc ≠ .idle → s.turn = .lcd ∨ s.turn = .lcdEvent →
    step s = .next s.pastTurn) ∧
  (∀ (s u t t' : State), s.turn = .kp ∨ s.turn = .kpEvent → u = { s with lcd := { s.lcd with busHung := true } } →
    step s = .next t → step u = .next t' → t'.kp = t.kp)

/-- The LCD sequencer advances through INIT(0), INIT(1), ... to the last, which with N_FS8 = 3 is INIT(16), and through
TEXT(j,h,s) in order; where the step is a write it does so when the write answers Ok. The last step ends the operation
(10_state.md R22, the spec's decision D28). -/
def Obligations.LcdSequencerFollowsTheFixedOrder : Prop :=
  ∀ s t : State, s.Inv → s.turn = .lcdEvent → step s = .next t → s.lcd.busHung = false →
    (isWritePos s.lcd.pc = true → s.lcd.answer 0 = .ok) →
      (∀ i, s.lcd.pc = .init i → i < 4 * s.cfg.nFs8 + 4 → t.lcd.pc = .init (i + 1) ∧ t.lcd.results = s.lcd.results) ∧
      (s.lcd.pc = .init (4 * s.cfg.nFs8 + 4) →
        t.lcd.pc = .idle ∧ t.lcd.state = .ready ∧ t.lcd.results = s.lcd.results ++ [.ok]) ∧
      (∀ j h, s.lcd.pc = .text j h 0 → t.lcd.pc = .text j h 1) ∧
      (∀ j h, s.lcd.pc = .text j h 1 → t.lcd.pc = .text j h 2) ∧
      (∀ j h, s.lcd.pc = .text j h 2 → t.lcd.pc = .text j h 3) ∧
      (∀ j, s.lcd.pc = .text j .hi 3 → t.lcd.pc = .text j .lo 0) ∧
      (∀ j, s.lcd.pc = .text j .lo 3 → j + 1 < s.lcd.text.length → t.lcd.pc = .text (j + 1) .hi 0) ∧
      (∀ j, s.lcd.pc = .text j .lo 3 → j + 1 = s.lcd.text.length →
        t.lcd.pc = .idle ∧ t.lcd.results = s.lcd.results ++ [.ok])

/-- An LCD operation run whole and run step by step, one event a turn, give the same state, whatever the bus answers: a
handshake within 4 * N_FS8 + 6 turns, 18 of them with N_FS8 = 3, a text within 8 turns a character and one (20_memory.md R42, 10_state.md R22; the schedule is
the model's, assumption log 8). -/
def Obligations.WholeLcdOperationEqualsItsSteps : Prop :=
  ∀ (s : State) (i : Instr) (rest : List Byte) (ts : List Turn), s.lcd.pc = .idle → s.lcd.busHung = false →
    decode s.cfg .lcd s.lcd.port = .instr i rest →
      ∃ n, run n { s with turns := List.replicate n .lcdEvent ++ ts } = step { s with turns := .lcd :: ts } ∧
        (∀ a, i = .lcdTryNew a → n ≤ 4 * s.cfg.nFs8 + 6) ∧ ∀ text, i = .lcdWriteText text → n ≤ 8 * text.length + 1

/-- Sending a text in two commands puts on the bus what one command would, and leaves the driver the same but for the
second result (30_encoding.md R63, the spec's own inference). -/
def Obligations.SplittingATextIsTransparent : Prop :=
  ∀ (s : State) (x y : List Byte), s.lcd.pc = .idle → s.lcd.state = .ready → s.lcd.busHung = false →
    s.lcd.allOk (4 * (x.length + y.length)) →
      ∃ t u v, exec (.lcdWriteText x) s = .next t ∧ exec (.lcdWriteText y) t = .next u ∧
        exec (.lcdWriteText (x ++ y)) s = .next v ∧
        u = { v with lcd := { v.lcd with results := v.lcd.results ++ [.ok] } }

/-- The lifecycle: UNINIT to READY with result Ok, UNINIT to FAILED with result BusError, and no other transition except
reset (10_state.md R20, the spec's decision D18). -/
def Obligations.LifecycleHasTwoTransitions : Prop :=
  ∀ s t : State, s.Inv → s.turn ≠ .rst → step s = .next t →
    t.lcd.state = s.lcd.state ∨
      (s.lcd.state = .uninit ∧ t.lcd.state = .ready ∧ t.lcd.results = s.lcd.results ++ [.ok]) ∨
      (s.lcd.state = .uninit ∧ t.lcd.state = .failed ∧ t.lcd.results = s.lcd.results ++ [.busError])

/-- After a failed handshake no step but reset gives an LCD result other than Refused or an LCD event, and each LCD turn
that finds a command at the port, reserved or not, answers it with Refused and does nothing else; after a failed text the
driver is READY and a later text sends its bytes whole, from a high nibble (60_exceptions.md R124, the spec's decision
D18). -/
def Obligations.LaterCommandsAfterAFailure : Prop :=
  (∀ s t : State, s.Inv → s.lcd.state = .failed → s.turn ≠ .rst → step s = .next t →
    t.lcd.state = .failed ∧ t.lcd.events = s.lcd.events ∧
      (t.lcd.results = s.lcd.results ∨ t.lcd.results = s.lcd.results ++ [.refused])) ∧
  (∀ s : State, s.lcd.state = .failed → s.lcd.pc = .idle → s.turn = .lcd ∨ s.turn = .lcdEvent →
    decode s.cfg .lcd s.lcd.port ≠ .incomplete → ∃ port : List Byte,
      step s = .next { s.pastTurn with lcd := { s.lcd with port := port, results := s.lcd.results ++ [.refused] } }) ∧
  (∀ (s : State) (x y : List Byte) (k : Nat), s.lcd.pc = .idle → s.lcd.state = .ready → s.lcd.busHung = false →
    k < 4 * x.length → s.lcd.allOk k → s.lcd.answer k = .busError →
    (∀ i, i < 4 * y.length → s.lcd.answer (k + 1 + i) = .ok) →
      ∃ t u, exec (.lcdWriteText x) s = .next t ∧ t.lcd.state = .ready ∧ exec (.lcdWriteText y) t = .next u ∧
        u.lcd.events = t.lcd.events ++ textEvents s.cfg s.lcd.addr y ∧
        u.lcd.results = s.lcd.results ++ [.busError, .ok])

/-- `lcd_addr` is written by LCD.TRY_NEW alone, before its first bus write, and never again: a step other than reset changes
it only where an idle UNINIT driver takes such a command; every bus write of a safe run's history went to it; and before
LCD.TRY_NEW no bus write has used it. -/
def Obligations.AddressIsWrittenOnceAndUsedAlways : Prop :=
  (∀ s t : State, s.turn ≠ .rst → step s = .next t → t.lcd.addr ≠ s.lcd.addr →
    s.lcd.state = .uninit ∧ s.lcd.pc = .idle ∧
      ∃ rest, decode s.cfg .lcd s.lcd.port = .instr (.lcdTryNew t.lcd.addr) rest) ∧
  (∀ s : State, s.Inv → ∀ a b o, LcdEvent.busWrite a b o ∈ s.lcd.events → a = s.lcd.addr) ∧
  (∀ s : State, s.Inv → s.lcd.state = .uninit → s.lcd.pc = .idle → s.lcd.events = [])

/-- The control flags are constants: no step changes them, and in a safe run's history every RELEASE byte, the one that
directly follows the 1 ms delay after an ASSERT write, is the backlight bit alone, and every other byte, an ASSERT byte,
carries both control bits. -/
def Obligations.ControlFlagsAreConstants : Prop :=
  (∀ s t : State, step s = .next t → t.cfg = s.cfg) ∧
  (∀ s : State, s.Inv → ∀ xs a b o ys, s.lcd.events = xs ++ .busWrite a b o :: ys →
    (xs.getLast? = some (.delay 1) → b = s.cfg.backlightOn) ∧
    (xs.getLast? ≠ some (.delay 1) →
      b &&& s.cfg.displayOn = s.cfg.displayOn ∧ b &&& s.cfg.backlightOn = s.cfg.backlightOn))

/-- In a safe run no delay is dropped, merged, reordered or shortened: the history opens with the 80 ms, after a completed
ASSERT write comes a delay of 1 ms, after a completed RELEASE write one of 5 ms, before anything else, and every delay but
the first directly follows a completed write. -/
def Obligations.EveryWriteIsFollowedByItsDelay : Prop :=
  ∀ s : State, s.cfg.wf = true → s.Inv →
    (∀ xs a b e ys, s.lcd.events = xs ++ .busWrite a b .ok :: e :: ys →
      e = .delay (if b &&& s.cfg.displayOn = s.cfg.displayOn then 1 else 5)) ∧
    (∀ e ys, s.lcd.events = e :: ys → e = .delay 80) ∧
    (∀ xs e n ys, s.lcd.events = xs ++ e :: .delay n :: ys → ∃ a b, e = .busWrite a b .ok)

/-! The two agents, reset, the invariant, the views. -/

/-- The agents share no state: a turn of KP leaves LCD alone and depends on KP alone, and the reverse. -/
def Obligations.AgentsShareNoState : Prop :=
  ∀ s s' t t' : State, s.turn = s'.turn → step s = .next t → step s' = .next t' →
    ((s.turn = .kp ∨ s.turn = .kpEvent) → t.lcd = s.lcd ∧ (s.kp = s'.kp → t.kp = t'.kp)) ∧
    ((s.turn = .lcd ∨ s.turn = .lcdEvent) → t.kp = s.kp ∧ (s.lcd = s'.lcd → s.cfg = s'.cfg → t.lcd = t'.lcd))

/-- A turn of KP and a turn of LCD may come in either order (20_memory.md R44, the spec's own inference; the schedule is the
model's, assumption log 8). -/
def Obligations.TurnsOfTheAgentsCommute : Prop :=
  ∀ (s : State) (a b : Turn) (ts : List Turn), a = .kp ∨ a = .kpEvent → b = .lcd ∨ b = .lcdEvent →
    run 2 { s with turns := a :: b :: ts } = run 2 { s with turns := b :: a :: ts }

/-- `rst`, at any instant and in any state: KP has its rows low, no last reported key and is idle, LCD is UNINIT and idle,
the operation in progress is abandoned with no result, no scan, no bus write and no delay; KP.PRESSED_KEY may be issued at
once (70_reset_and_hazards.md R140, R141, R144, the spec's decisions D6, D18, D32; that the environment's answers are left
alone is the model's reading, assumption log 16). -/
def Obligations.ResetTakesTheResetValuesAtAnyTime : Prop :=
  ∀ s : State, s.turn = .rst → ∃ t, step s = .next t ∧
    t.kp.rowOut = 0b0000 ∧ t.kp.lastReportedKey = none ∧ t.kp.candidate = none ∧ t.kp.pc = .idle ∧
    (∀ r c : Fin 4, t.kp.grid.at r c = false) ∧ t.kp.events = [] ∧ t.kp.results = [] ∧
    t.kp.colAnswers = s.kp.colAnswers ∧ t.kp.colFree = s.kp.colFree ∧
    t.lcd.state = .uninit ∧ t.lcd.pc = .idle ∧ t.lcd.busHung = false ∧ t.lcd.events = [] ∧ t.lcd.results = [] ∧
    t.lcd.busAnswers = s.lcd.busAnswers ∧ t.lcd.busFree = s.lcd.busFree ∧ t.cfg = s.cfg ∧ t.status = 0b0000 ∧
    ∃ u, exec .kpPressedKey t = .next u ∧ u.kp.results.length = 1

/-- The invariant holds at reset. -/
def Obligations.InvariantHoldsAtReset : Prop := State.reset.Inv

/-- Every step keeps the invariant, from every state that has it. -/
def Obligations.EveryStepKeepsTheInvariant : Prop := ∀ s t : State, s.Inv → step s = .next t → t.Inv

/-- The histories are records: a step other than reset only appends to them, and to the results (10_state.md R27). -/
def Obligations.HistoriesOnlyGrow : Prop :=
  ∀ s t : State, s.turn ≠ .rst → step s = .next t →
    (∃ es, t.kp.events = s.kp.events ++ es) ∧ (∃ rs, t.kp.results = s.kp.results ++ rs) ∧
      (∃ es, t.lcd.events = s.lcd.events ++ es) ∧ ∃ rs, t.lcd.results = s.lcd.results ++ rs

/-- STATUS bit by bit in every state, and after LCD.TRY_NEW issued with both agents idle: ready if every write answered Ok, failed if the first that did
not failed, busy if it never completed, and busy it stays, with no result, through any turns but reset (10_state.md R24,
the spec's decision D29; 60_exceptions.md R133). -/
def Obligations.StatusTellsHowTheHandshakeEnded : Prop :=
  (∀ s : State, (s.status.getLsbD 0 = true ↔ s.kp.pc ≠ .idle) ∧ (s.status.getLsbD 1 = true ↔ s.lcd.pc ≠ .idle) ∧
    (s.status.getLsbD 2 = true ↔ s.lcd.state = .ready) ∧ (s.status.getLsbD 3 = true ↔ s.lcd.state = .failed)) ∧
  ∀ (s t : State) (a : Addr), s.kp.pc = .idle → s.lcd.pc = .idle → s.lcd.state = .uninit → s.lcd.busHung = false →
    exec (.lcdTryNew a) s = .next t →
      (s.lcd.allOk (2 * s.cfg.nFs8 + 2) → t.status = 0b0100) ∧
      ∀ k, k < 2 * s.cfg.nFs8 + 2 → s.lcd.allOk k →
        (s.lcd.answer k = .busError → t.status = 0b1000) ∧
        (s.lcd.answer k = .never → t.status = 0b0010 ∧
          ∀ (ts : List Turn) (u : State), Turn.rst ∉ ts → run ts.length { t with turns := ts } = .next u →
            u.lcd = t.lcd ∧ u.status &&& 0b1110 = 0b0010)

/-- What reaches the display controller, under the far-side view of 20_memory.md R48: a whole handshake delivers the
N_FS8 + 1 command nibbles, and a whole text delivers each character's high nibble, then its low nibble, with the character
flags, after what had been latched before, where that is known; no bit of a code is lost. RELEASE is on the pins at the
end. The view is the spec's decision D34 (assumption log 19). -/
def Obligations.FarSideGetsTheNibblesInOrder : Prop :=
  (∀ (s : State) (a : Addr), s.cfg.wf = true → s.lcd.pc = .idle → s.lcd.state = .uninit → s.lcd.busHung = false →
    s.lcd.allOk (2 * s.cfg.nFs8 + 2) →
      ∃ t, exec (.lcdTryNew a) s = .next t ∧
        t.lcd.farView t.cfg =
          { pins := some s.cfg.backlightOn
            latched := (s.lcd.farView s.cfg).latched.map
              (· ++ List.replicate s.cfg.nFs8 (commandNibble s.cfg s.cfg.fs8) ++ [commandNibble s.cfg s.cfg.fs4]) }) ∧
  (∀ (s : State) (text : List Byte), s.cfg.wf = true → s.lcd.pc = .idle → s.lcd.state = .ready → s.lcd.busHung = false →
    s.lcd.allOk (4 * text.length) →
      ∃ t, exec (.lcdWriteText text) s = .next t ∧
        t.lcd.farView t.cfg =
          { pins := if text = [] then (s.lcd.farView s.cfg).pins else some s.cfg.backlightOn
            latched := (s.lcd.farView s.cfg).latched.map (· ++ textNibbles s.cfg text) })

/-- After a failed bus write the pins are unknown until the next completed one, and what the controller has latched is
unknown however the history goes on, through every step and every reset (20_memory.md R49, 60_exceptions.md R124). A reset
leaves the pins what they held (70_reset_and_hazards.md R141); it makes the latched nibbles unknown where it abandons a
pulse, and the pins too where it abandons a write in flight (R144), and elsewhere loses nothing. That a pulse counts to the
end of its last delay, that a write in flight counts as failed, and that a handshake makes nothing known again, is the
model's reading (assumption log 29). -/
def Obligations.FarSideIsUnknownAfterAFailure : Prop :=
  (∀ (cfg : Config) (f : FarSide) (es es' : List LcdEvent) (a : Addr) (b : Byte),
    farFrom cfg f (es ++ [.busWrite a b .busError]) = { pins := none, latched := none } ∧
    (farFrom cfg f (es ++ .busWrite a b .busError :: es')).latched = none) ∧
  (∀ s t : State, step s = .next t → (s.lcd.farView s.cfg).latched = none → (t.lcd.farView t.cfg).latched = none) ∧
  (∀ s t : State, s.turn = .rst → step s = .next t → s.lcd.busHung = true →
    t.lcd.farView t.cfg = { pins := none, latched := none }) ∧
  (∀ s t : State, s.turn = .rst → step s = .next t → s.lcd.busHung = false →
    (t.lcd.farView t.cfg).pins = (s.lcd.farView s.cfg).pins ∧
    ((∃ i, s.lcd.pc = .init i ∧ i ≠ 0 ∧ i % 4 ≠ 1) ∨ (∃ j h q, s.lcd.pc = .text j h q ∧ q ≠ 0) →
      (t.lcd.farView t.cfg).latched = none) ∧
    (s.lcd.pc = .idle ∨ (∃ i, s.lcd.pc = .init i ∧ (i = 0 ∨ i % 4 = 1)) ∨ (∃ j h, s.lcd.pc = .text j h 0) →
      (t.lcd.farView t.cfg).latched = (s.lcd.farView s.cfg).latched))
end

