-- ==== Sys2Proof/Laws/State.lean ====
section
/-! SUPPORT. Small lemmas of the state: one per field per update, and the grid's read-after-write laws. -/

namespace Sys2Proof.Machine

/-! KP after some answers. -/

@[simp] theorem Kp.answered_rowOut (k : Kp) (n : Nat) : (k.answered n).rowOut = k.rowOut := rfl
@[simp] theorem Kp.answered_lastReportedKey (k : Kp) (n : Nat) : (k.answered n).lastReportedKey = k.lastReportedKey := rfl
@[simp] theorem Kp.answered_grid (k : Kp) (n : Nat) : (k.answered n).grid = k.grid := rfl
@[simp] theorem Kp.answered_candidate (k : Kp) (n : Nat) : (k.answered n).candidate = k.candidate := rfl
@[simp] theorem Kp.answered_pc (k : Kp) (n : Nat) : (k.answered n).pc = k.pc := rfl
@[simp] theorem Kp.answered_ret (k : Kp) (n : Nat) : (k.answered n).ret = k.ret := rfl
@[simp] theorem Kp.answered_events (k : Kp) (n : Nat) : (k.answered n).events = k.events := rfl
@[simp] theorem Kp.answered_results (k : Kp) (n : Nat) : (k.answered n).results = k.results := rfl
@[simp] theorem Kp.answered_colAnswers (k : Kp) (n : Nat) : (k.answered n).colAnswers = k.colAnswers.drop n := rfl
@[simp] theorem Kp.answered_colFree (k : Kp) (n : Nat) : (k.answered n).colFree = k.colFree + (n - k.colAnswers.length) := rfl
@[simp] theorem Kp.answered_port (k : Kp) (n : Nat) : (k.answered n).port = k.port := rfl

/-! LCD after some answers. -/

@[simp] theorem Lcd.answered_state (l : Lcd) (n : Nat) : (l.answered n).state = l.state := rfl
@[simp] theorem Lcd.answered_addr (l : Lcd) (n : Nat) : (l.answered n).addr = l.addr := rfl
@[simp] theorem Lcd.answered_pc (l : Lcd) (n : Nat) : (l.answered n).pc = l.pc := rfl
@[simp] theorem Lcd.answered_text (l : Lcd) (n : Nat) : (l.answered n).text = l.text := rfl
@[simp] theorem Lcd.answered_busHung (l : Lcd) (n : Nat) : (l.answered n).busHung = l.busHung := rfl
@[simp] theorem Lcd.answered_events (l : Lcd) (n : Nat) : (l.answered n).events = l.events := rfl
@[simp] theorem Lcd.answered_results (l : Lcd) (n : Nat) : (l.answered n).results = l.results := rfl
@[simp] theorem Lcd.answered_busAnswers (l : Lcd) (n : Nat) : (l.answered n).busAnswers = l.busAnswers.drop n := rfl
@[simp] theorem Lcd.answered_busFree (l : Lcd) (n : Nat) : (l.answered n).busFree = l.busFree + (n - l.busAnswers.length) := rfl
@[simp] theorem Lcd.answered_port (l : Lcd) (n : Nat) : (l.answered n).port = l.port := rfl
@[simp] theorem Lcd.answered_farBefore (l : Lcd) (n : Nat) : (l.answered n).farBefore = l.farBefore := rfl

/-! The ports. -/

@[simp] theorem State.withKpPort_cfg (s : State) (rest : List Byte) : (s.withKpPort rest).cfg = s.cfg := rfl
@[simp] theorem State.withKpPort_kp (s : State) (rest : List Byte) : (s.withKpPort rest).kp = { s.kp with port := rest } := rfl
@[simp] theorem State.withKpPort_lcd (s : State) (rest : List Byte) : (s.withKpPort rest).lcd = s.lcd := rfl
@[simp] theorem State.withKpPort_turns (s : State) (rest : List Byte) : (s.withKpPort rest).turns = s.turns := rfl
@[simp] theorem State.withKpPort_turnFree (s : State) (rest : List Byte) : (s.withKpPort rest).turnFree = s.turnFree := rfl
@[simp] theorem State.withLcdPort_cfg (s : State) (rest : List Byte) : (s.withLcdPort rest).cfg = s.cfg := rfl
@[simp] theorem State.withLcdPort_kp (s : State) (rest : List Byte) : (s.withLcdPort rest).kp = s.kp := rfl
@[simp] theorem State.withLcdPort_lcd (s : State) (rest : List Byte) : (s.withLcdPort rest).lcd = { s.lcd with port := rest } := rfl
@[simp] theorem State.withLcdPort_turns (s : State) (rest : List Byte) : (s.withLcdPort rest).turns = s.turns := rfl
@[simp] theorem State.withLcdPort_turnFree (s : State) (rest : List Byte) : (s.withLcdPort rest).turnFree = s.turnFree := rfl

/-! Reset. -/

@[simp] theorem Kp.rst_rowOut (k : Kp) : (k.rst).rowOut = 0 := rfl
@[simp] theorem Kp.rst_lastReportedKey (k : Kp) : (k.rst).lastReportedKey = none := rfl
@[simp] theorem Kp.rst_grid (k : Kp) : (k.rst).grid = Grid.empty := rfl
@[simp] theorem Kp.rst_candidate (k : Kp) : (k.rst).candidate = none := rfl
@[simp] theorem Kp.rst_pc (k : Kp) : (k.rst).pc = .idle := rfl
@[simp] theorem Kp.rst_ret (k : Kp) : (k.rst).ret = none := rfl
@[simp] theorem Kp.rst_events (k : Kp) : (k.rst).events = [] := rfl
@[simp] theorem Kp.rst_results (k : Kp) : (k.rst).results = [] := rfl
@[simp] theorem Kp.rst_colAnswers (k : Kp) : (k.rst).colAnswers = k.colAnswers := rfl
@[simp] theorem Kp.rst_colFree (k : Kp) : (k.rst).colFree = k.colFree := rfl
@[simp] theorem Kp.rst_port (k : Kp) : (k.rst).port = k.port := rfl
@[simp] theorem Lcd.rst_state (cfg : Config) (l : Lcd) : (l.rst cfg).state = .uninit := rfl
@[simp] theorem Lcd.rst_addr (cfg : Config) (l : Lcd) : (l.rst cfg).addr = l.addr := rfl
@[simp] theorem Lcd.rst_pc (cfg : Config) (l : Lcd) : (l.rst cfg).pc = .idle := rfl
@[simp] theorem Lcd.rst_text (cfg : Config) (l : Lcd) : (l.rst cfg).text = [] := rfl
@[simp] theorem Lcd.rst_busHung (cfg : Config) (l : Lcd) : (l.rst cfg).busHung = false := rfl
@[simp] theorem Lcd.rst_events (cfg : Config) (l : Lcd) : (l.rst cfg).events = [] := rfl
@[simp] theorem Lcd.rst_results (cfg : Config) (l : Lcd) : (l.rst cfg).results = [] := rfl
@[simp] theorem Lcd.rst_busAnswers (cfg : Config) (l : Lcd) : (l.rst cfg).busAnswers = l.busAnswers := rfl
@[simp] theorem Lcd.rst_busFree (cfg : Config) (l : Lcd) : (l.rst cfg).busFree = l.busFree := rfl
@[simp] theorem Lcd.rst_port (cfg : Config) (l : Lcd) : (l.rst cfg).port = l.port := rfl
@[simp] theorem Lcd.rst_farBefore (cfg : Config) (l : Lcd) : (l.rst cfg).farBefore = l.farAfterRst cfg := rfl
@[simp] theorem Lcd.rst_farView (cfg : Config) (l : Lcd) : (l.rst cfg).farView cfg = l.farAfterRst cfg := rfl
@[simp] theorem State.rst_cfg (s : State) : (s.rst).cfg = s.cfg := rfl
@[simp] theorem State.rst_kp (s : State) : (s.rst).kp = s.kp.rst := rfl
@[simp] theorem State.rst_lcd (s : State) : (s.rst).lcd = s.lcd.rst s.cfg := rfl
@[simp] theorem State.rst_turns (s : State) : (s.rst).turns = s.turns := rfl
@[simp] theorem State.rst_turnFree (s : State) : (s.rst).turnFree = s.turnFree := rfl

/-! Taking a turn from the schedule. -/

@[simp] theorem State.pastTurn_cfg (s : State) : s.pastTurn.cfg = s.cfg := by
  unfold State.pastTurn; split <;> rfl
@[simp] theorem State.pastTurn_kp (s : State) : s.pastTurn.kp = s.kp := by
  unfold State.pastTurn; split <;> rfl
@[simp] theorem State.pastTurn_lcd (s : State) : s.pastTurn.lcd = s.lcd := by
  unfold State.pastTurn; split <;> rfl
theorem State.turn_of_cons (s : State) (t : Turn) (ts : List Turn) (h : s.turns = t :: ts) : s.turn = t := by
  simp [State.turn, h]
theorem State.pastTurn_of_cons (s : State) (t : Turn) (ts : List Turn) (h : s.turns = t :: ts) :
    s.pastTurn = { s with turns := ts } := by
  simp [State.pastTurn, h]

/-! The grid. -/

@[simp] theorem Grid.at_empty (r c : Fin 4) : Grid.empty.at r c = false := by
  revert r c; decide

@[simp] theorem Grid.at_put_self (g : Grid) (r c : Fin 4) (v : Bool) : (g.put r c v).at r c = v := by
  simp [Grid.at, Grid.put]

theorem Grid.at_put_other (g : Grid) (r c r' c' : Fin 4) (v : Bool) (h : (r', c') ≠ (r, c)) :
    (g.put r c v).at r' c' = g.at r' c' := by
  by_cases hr : r = r'
  · subst hr
    have hc : c ≠ c' := fun e => h (by rw [e])
    simp [Grid.at, Grid.put, Vector.getElem_set_ne, Fin.val_ne_of_ne hc]
  · simp [Grid.at, Grid.put, Vector.getElem_set_ne, Fin.val_ne_of_ne hr]

/-- Two grids with the same cells are the same grid. -/
theorem Grid.ext_at (g g' : Grid) (h : ∀ r c : Fin 4, g.at r c = g'.at r c) : g = g' := by
  apply Vector.ext
  intro i hi
  apply Vector.ext
  intro j hj
  exact h ⟨i, hi⟩ ⟨j, hj⟩

end Sys2Proof.Machine
end

