-- ==== Sys2Proof/Laws/Ops.lean ====
section
/-! SUPPORT. What each shared operation does, said once. -/

namespace Sys2Proof.Machine

/-! Fields after each operation of KP. -/

@[simp] theorem rowWrite_rowOut (r : Fin 4) (v : Bool) (k : Kp) : (rowWrite r v k).rowOut = if v then k.rowOut ||| rowMask r else k.rowOut &&& ~~~(rowMask r) := rfl
@[simp] theorem rowWrite_lastReportedKey (r : Fin 4) (v : Bool) (k : Kp) : (rowWrite r v k).lastReportedKey = k.lastReportedKey := rfl
@[simp] theorem rowWrite_grid (r : Fin 4) (v : Bool) (k : Kp) : (rowWrite r v k).grid = k.grid := rfl
@[simp] theorem rowWrite_candidate (r : Fin 4) (v : Bool) (k : Kp) : (rowWrite r v k).candidate = k.candidate := rfl
@[simp] theorem rowWrite_pc (r : Fin 4) (v : Bool) (k : Kp) : (rowWrite r v k).pc = k.pc := rfl
@[simp] theorem rowWrite_ret (r : Fin 4) (v : Bool) (k : Kp) : (rowWrite r v k).ret = k.ret := rfl
@[simp] theorem rowWrite_events (r : Fin 4) (v : Bool) (k : Kp) : (rowWrite r v k).events = k.events ++ [.rowSet r v] := rfl
@[simp] theorem rowWrite_results (r : Fin 4) (v : Bool) (k : Kp) : (rowWrite r v k).results = k.results := rfl
@[simp] theorem rowWrite_colAnswers (r : Fin 4) (v : Bool) (k : Kp) : (rowWrite r v k).colAnswers = k.colAnswers := rfl
@[simp] theorem rowWrite_colFree (r : Fin 4) (v : Bool) (k : Kp) : (rowWrite r v k).colFree = k.colFree := rfl
@[simp] theorem rowWrite_port (r : Fin 4) (v : Bool) (k : Kp) : (rowWrite r v k).port = k.port := rfl
@[simp] theorem decodeCandidate_rowOut (k : Kp) : (decodeCandidate k).rowOut = k.rowOut := rfl
@[simp] theorem decodeCandidate_lastReportedKey (k : Kp) : (decodeCandidate k).lastReportedKey = k.lastReportedKey := rfl
@[simp] theorem decodeCandidate_grid (k : Kp) : (decodeCandidate k).grid = k.grid := rfl
@[simp] theorem decodeCandidate_candidate (k : Kp) : (decodeCandidate k).candidate = decodeGrid k.grid := rfl
@[simp] theorem decodeCandidate_pc (k : Kp) : (decodeCandidate k).pc = k.pc := rfl
@[simp] theorem decodeCandidate_ret (k : Kp) : (decodeCandidate k).ret = k.ret := rfl
@[simp] theorem decodeCandidate_events (k : Kp) : (decodeCandidate k).events = k.events := rfl
@[simp] theorem decodeCandidate_results (k : Kp) : (decodeCandidate k).results = k.results := rfl
@[simp] theorem decodeCandidate_colAnswers (k : Kp) : (decodeCandidate k).colAnswers = k.colAnswers := rfl
@[simp] theorem decodeCandidate_colFree (k : Kp) : (decodeCandidate k).colFree = k.colFree := rfl
@[simp] theorem decodeCandidate_port (k : Kp) : (decodeCandidate k).port = k.port := rfl
@[simp] theorem edgeDetect_rowOut (k : Kp) : (edgeDetect k).rowOut = k.rowOut := rfl
@[simp] theorem edgeDetect_lastReportedKey (k : Kp) : (edgeDetect k).lastReportedKey = if k.candidate = k.lastReportedKey then k.lastReportedKey else k.candidate := rfl
@[simp] theorem edgeDetect_grid (k : Kp) : (edgeDetect k).grid = k.grid := rfl
@[simp] theorem edgeDetect_candidate (k : Kp) : (edgeDetect k).candidate = k.candidate := rfl
@[simp] theorem edgeDetect_pc (k : Kp) : (edgeDetect k).pc = k.pc := rfl
@[simp] theorem edgeDetect_ret (k : Kp) : (edgeDetect k).ret = if k.candidate = k.lastReportedKey then none else k.candidate := rfl
@[simp] theorem edgeDetect_events (k : Kp) : (edgeDetect k).events = k.events := rfl
@[simp] theorem edgeDetect_results (k : Kp) : (edgeDetect k).results = k.results := rfl
@[simp] theorem edgeDetect_colAnswers (k : Kp) : (edgeDetect k).colAnswers = k.colAnswers := rfl
@[simp] theorem edgeDetect_colFree (k : Kp) : (edgeDetect k).colFree = k.colFree := rfl
@[simp] theorem edgeDetect_port (k : Kp) : (edgeDetect k).port = k.port := rfl
@[simp] theorem kpReturn_rowOut (k : Kp) : (kpReturn k).rowOut = k.rowOut := rfl
@[simp] theorem kpReturn_lastReportedKey (k : Kp) : (kpReturn k).lastReportedKey = k.lastReportedKey := rfl
@[simp] theorem kpReturn_grid (k : Kp) : (kpReturn k).grid = k.grid := rfl
@[simp] theorem kpReturn_candidate (k : Kp) : (kpReturn k).candidate = k.candidate := rfl
@[simp] theorem kpReturn_pc (k : Kp) : (kpReturn k).pc = .idle := rfl
@[simp] theorem kpReturn_ret (k : Kp) : (kpReturn k).ret = k.ret := rfl
@[simp] theorem kpReturn_events (k : Kp) : (kpReturn k).events = k.events := rfl
@[simp] theorem kpReturn_results (k : Kp) : (kpReturn k).results = k.results ++ [.key k.ret] := rfl
@[simp] theorem kpReturn_colAnswers (k : Kp) : (kpReturn k).colAnswers = k.colAnswers := rfl
@[simp] theorem kpReturn_colFree (k : Kp) : (kpReturn k).colFree = k.colFree := rfl
@[simp] theorem kpReturn_port (k : Kp) : (kpReturn k).port = k.port := rfl
@[simp] theorem kpRefuse_rowOut (k : Kp) : (kpRefuse k).rowOut = k.rowOut := rfl
@[simp] theorem kpRefuse_lastReportedKey (k : Kp) : (kpRefuse k).lastReportedKey = k.lastReportedKey := rfl
@[simp] theorem kpRefuse_grid (k : Kp) : (kpRefuse k).grid = k.grid := rfl
@[simp] theorem kpRefuse_candidate (k : Kp) : (kpRefuse k).candidate = k.candidate := rfl
@[simp] theorem kpRefuse_pc (k : Kp) : (kpRefuse k).pc = k.pc := rfl
@[simp] theorem kpRefuse_ret (k : Kp) : (kpRefuse k).ret = k.ret := rfl
@[simp] theorem kpRefuse_events (k : Kp) : (kpRefuse k).events = k.events := rfl
@[simp] theorem kpRefuse_results (k : Kp) : (kpRefuse k).results = k.results ++ [.refused] := rfl
@[simp] theorem kpRefuse_colAnswers (k : Kp) : (kpRefuse k).colAnswers = k.colAnswers := rfl
@[simp] theorem kpRefuse_colFree (k : Kp) : (kpRefuse k).colFree = k.colFree := rfl
@[simp] theorem kpRefuse_port (k : Kp) : (kpRefuse k).port = k.port := rfl
@[simp] theorem kpBegin_rowOut (k : Kp) : (kpBegin k).rowOut = k.rowOut := rfl
@[simp] theorem kpBegin_lastReportedKey (k : Kp) : (kpBegin k).lastReportedKey = k.lastReportedKey := rfl
@[simp] theorem kpBegin_grid (k : Kp) : (kpBegin k).grid = k.grid := rfl
@[simp] theorem kpBegin_candidate (k : Kp) : (kpBegin k).candidate = k.candidate := rfl
@[simp] theorem kpBegin_pc (k : Kp) : (kpBegin k).pc = .rowHi 0 := rfl
@[simp] theorem kpBegin_ret (k : Kp) : (kpBegin k).ret = k.ret := rfl
@[simp] theorem kpBegin_events (k : Kp) : (kpBegin k).events = k.events := rfl
@[simp] theorem kpBegin_results (k : Kp) : (kpBegin k).results = k.results := rfl
@[simp] theorem kpBegin_colAnswers (k : Kp) : (kpBegin k).colAnswers = k.colAnswers := rfl
@[simp] theorem kpBegin_colFree (k : Kp) : (kpBegin k).colFree = k.colFree := rfl
@[simp] theorem kpBegin_port (k : Kp) : (kpBegin k).port = k.port := rfl

/-! Fields after each operation of LCD. -/

@[simp] theorem lcdReturn_state (r : LcdResult) (l : Lcd) : (lcdReturn r l).state = l.state := rfl
@[simp] theorem lcdReturn_addr (r : LcdResult) (l : Lcd) : (lcdReturn r l).addr = l.addr := rfl
@[simp] theorem lcdReturn_pc (r : LcdResult) (l : Lcd) : (lcdReturn r l).pc = .idle := rfl
@[simp] theorem lcdReturn_text (r : LcdResult) (l : Lcd) : (lcdReturn r l).text = [] := rfl
@[simp] theorem lcdReturn_busHung (r : LcdResult) (l : Lcd) : (lcdReturn r l).busHung = l.busHung := rfl
@[simp] theorem lcdReturn_events (r : LcdResult) (l : Lcd) : (lcdReturn r l).events = l.events := rfl
@[simp] theorem lcdReturn_results (r : LcdResult) (l : Lcd) : (lcdReturn r l).results = l.results ++ [r] := rfl
@[simp] theorem lcdReturn_busAnswers (r : LcdResult) (l : Lcd) : (lcdReturn r l).busAnswers = l.busAnswers := rfl
@[simp] theorem lcdReturn_busFree (r : LcdResult) (l : Lcd) : (lcdReturn r l).busFree = l.busFree := rfl
@[simp] theorem lcdReturn_port (r : LcdResult) (l : Lcd) : (lcdReturn r l).port = l.port := rfl
@[simp] theorem lcdReturn_farBefore (r : LcdResult) (l : Lcd) : (lcdReturn r l).farBefore = l.farBefore := rfl
@[simp] theorem lcdRefuse_state (l : Lcd) : (lcdRefuse l).state = l.state := rfl
@[simp] theorem lcdRefuse_addr (l : Lcd) : (lcdRefuse l).addr = l.addr := rfl
@[simp] theorem lcdRefuse_pc (l : Lcd) : (lcdRefuse l).pc = l.pc := rfl
@[simp] theorem lcdRefuse_text (l : Lcd) : (lcdRefuse l).text = l.text := rfl
@[simp] theorem lcdRefuse_busHung (l : Lcd) : (lcdRefuse l).busHung = l.busHung := rfl
@[simp] theorem lcdRefuse_events (l : Lcd) : (lcdRefuse l).events = l.events := rfl
@[simp] theorem lcdRefuse_results (l : Lcd) : (lcdRefuse l).results = l.results ++ [.refused] := rfl
@[simp] theorem lcdRefuse_busAnswers (l : Lcd) : (lcdRefuse l).busAnswers = l.busAnswers := rfl
@[simp] theorem lcdRefuse_busFree (l : Lcd) : (lcdRefuse l).busFree = l.busFree := rfl
@[simp] theorem lcdRefuse_port (l : Lcd) : (lcdRefuse l).port = l.port := rfl
@[simp] theorem lcdRefuse_farBefore (l : Lcd) : (lcdRefuse l).farBefore = l.farBefore := rfl
@[simp] theorem raiseBusError_state (l : Lcd) : (raiseBusError l).state = stateAfterError l := rfl
@[simp] theorem raiseBusError_addr (l : Lcd) : (raiseBusError l).addr = l.addr := rfl
@[simp] theorem raiseBusError_pc (l : Lcd) : (raiseBusError l).pc = .idle := rfl
@[simp] theorem raiseBusError_text (l : Lcd) : (raiseBusError l).text = [] := rfl
@[simp] theorem raiseBusError_busHung (l : Lcd) : (raiseBusError l).busHung = l.busHung := rfl
@[simp] theorem raiseBusError_events (l : Lcd) : (raiseBusError l).events = l.events := rfl
@[simp] theorem raiseBusError_results (l : Lcd) : (raiseBusError l).results = l.results ++ [.busError] := rfl
@[simp] theorem raiseBusError_busAnswers (l : Lcd) : (raiseBusError l).busAnswers = l.busAnswers := rfl
@[simp] theorem raiseBusError_busFree (l : Lcd) : (raiseBusError l).busFree = l.busFree := rfl
@[simp] theorem raiseBusError_port (l : Lcd) : (raiseBusError l).port = l.port := rfl
@[simp] theorem raiseBusError_farBefore (l : Lcd) : (raiseBusError l).farBefore = l.farBefore := rfl
@[simp] theorem recordWrite_state (b : Byte) (o : BusOutcome) (l : Lcd) : (recordWrite b o l).state = l.state := rfl
@[simp] theorem recordWrite_addr (b : Byte) (o : BusOutcome) (l : Lcd) : (recordWrite b o l).addr = l.addr := rfl
@[simp] theorem recordWrite_pc (b : Byte) (o : BusOutcome) (l : Lcd) : (recordWrite b o l).pc = l.pc := rfl
@[simp] theorem recordWrite_text (b : Byte) (o : BusOutcome) (l : Lcd) : (recordWrite b o l).text = l.text := rfl
@[simp] theorem recordWrite_busHung (b : Byte) (o : BusOutcome) (l : Lcd) : (recordWrite b o l).busHung = l.busHung := rfl
@[simp] theorem recordWrite_events (b : Byte) (o : BusOutcome) (l : Lcd) : (recordWrite b o l).events = l.events ++ [.busWrite l.addr b o] := rfl
@[simp] theorem recordWrite_results (b : Byte) (o : BusOutcome) (l : Lcd) : (recordWrite b o l).results = l.results := rfl
@[simp] theorem recordWrite_busAnswers (b : Byte) (o : BusOutcome) (l : Lcd) : (recordWrite b o l).busAnswers = l.busAnswers := rfl
@[simp] theorem recordWrite_busFree (b : Byte) (o : BusOutcome) (l : Lcd) : (recordWrite b o l).busFree = l.busFree := rfl
@[simp] theorem recordWrite_port (b : Byte) (o : BusOutcome) (l : Lcd) : (recordWrite b o l).port = l.port := rfl
@[simp] theorem recordWrite_farBefore (b : Byte) (o : BusOutcome) (l : Lcd) : (recordWrite b o l).farBefore = l.farBefore := rfl
@[simp] theorem delayMs_state (n : Nat) (l : Lcd) : (delayMs n l).state = l.state := rfl
@[simp] theorem delayMs_addr (n : Nat) (l : Lcd) : (delayMs n l).addr = l.addr := rfl
@[simp] theorem delayMs_pc (n : Nat) (l : Lcd) : (delayMs n l).pc = l.pc := rfl
@[simp] theorem delayMs_text (n : Nat) (l : Lcd) : (delayMs n l).text = l.text := rfl
@[simp] theorem delayMs_busHung (n : Nat) (l : Lcd) : (delayMs n l).busHung = l.busHung := rfl
@[simp] theorem delayMs_events (n : Nat) (l : Lcd) : (delayMs n l).events = l.events ++ [.delay n] := rfl
@[simp] theorem delayMs_results (n : Nat) (l : Lcd) : (delayMs n l).results = l.results := rfl
@[simp] theorem delayMs_busAnswers (n : Nat) (l : Lcd) : (delayMs n l).busAnswers = l.busAnswers := rfl
@[simp] theorem delayMs_busFree (n : Nat) (l : Lcd) : (delayMs n l).busFree = l.busFree := rfl
@[simp] theorem delayMs_port (n : Nat) (l : Lcd) : (delayMs n l).port = l.port := rfl
@[simp] theorem delayMs_farBefore (n : Nat) (l : Lcd) : (delayMs n l).farBefore = l.farBefore := rfl
@[simp] theorem initReturn_state (l : Lcd) : (initReturn l).state = .ready := rfl
@[simp] theorem initReturn_addr (l : Lcd) : (initReturn l).addr = l.addr := rfl
@[simp] theorem initReturn_pc (l : Lcd) : (initReturn l).pc = .idle := rfl
@[simp] theorem initReturn_text (l : Lcd) : (initReturn l).text = [] := rfl
@[simp] theorem initReturn_busHung (l : Lcd) : (initReturn l).busHung = l.busHung := rfl
@[simp] theorem initReturn_events (l : Lcd) : (initReturn l).events = l.events := rfl
@[simp] theorem initReturn_results (l : Lcd) : (initReturn l).results = l.results ++ [.ok] := rfl
@[simp] theorem initReturn_busAnswers (l : Lcd) : (initReturn l).busAnswers = l.busAnswers := rfl
@[simp] theorem initReturn_busFree (l : Lcd) : (initReturn l).busFree = l.busFree := rfl
@[simp] theorem initReturn_port (l : Lcd) : (initReturn l).port = l.port := rfl
@[simp] theorem initReturn_farBefore (l : Lcd) : (initReturn l).farBefore = l.farBefore := rfl

/-! The environment's answers. -/

theorem nextColumn_eq_answer (k : Kp) : nextColumn k = k.answer 0 := by
  unfold nextColumn Kp.answer
  cases k.colAnswers <;> simp

theorem dropColumn_eq_answered (k : Kp) : dropColumn k = k.answered 1 := by
  cases k with
  | mk a b c d e f g h ans fr p => cases ans <;> simp [dropColumn, Kp.answered]

@[simp] theorem Kp.answered_zero (k : Kp) : k.answered 0 = k := by simp [Kp.answered]

@[simp] theorem Kp.answered_answered (k : Kp) (m n : Nat) : (k.answered m).answered n = k.answered (m + n) := by
  simp only [Kp.answered, List.drop_drop, List.length_drop, Kp.mk.injEq, true_and]
  simp
  omega

theorem Kp.answer_answered (k : Kp) (n i : Nat) : (k.answered n).answer i = k.answer (n + i) := by
  unfold Kp.answer
  simp only [Kp.answered, List.getElem?_drop, List.length_drop]
  split
  · rfl
  · rename_i h
    have h' := List.getElem?_eq_none_iff.mp h
    congr 1
    omega

theorem nextBus_eq_answer (l : Lcd) : nextBus l = l.answer 0 := by
  unfold nextBus Lcd.answer
  cases l.busAnswers <;> simp

theorem dropBus_eq_answered (l : Lcd) : dropBus l = l.answered 1 := by
  cases l with
  | mk a b c d e f g ans fr p u => cases ans <;> simp [dropBus, Lcd.answered]

@[simp] theorem Lcd.answered_zero (l : Lcd) : l.answered 0 = l := by simp [Lcd.answered]

@[simp] theorem Lcd.answered_answered (l : Lcd) (m n : Nat) : (l.answered m).answered n = l.answered (m + n) := by
  simp only [Lcd.answered, List.drop_drop, List.length_drop, Lcd.mk.injEq, true_and]
  simp
  omega

theorem Lcd.answer_answered (l : Lcd) (n i : Nat) : (l.answered n).answer i = l.answer (n + i) := by
  unfold Lcd.answer
  simp only [Lcd.answered, List.getElem?_drop, List.length_drop]
  split
  · rfl
  · rename_i h
    have h' := List.getElem?_eq_none_iff.mp h
    congr 1
    omega

/-! Everything a bus write can do (20_memory.md R36). -/

theorem i2cWrite_hung (b : Byte) (l : Lcd) (h : l.busHung = true) : i2cWrite b l = (.waiting, l) := by
  simp [i2cWrite, h]

theorem i2cWrite_ok (b : Byte) (l : Lcd) (h : l.busHung = false) (a : l.answer 0 = .ok) :
    i2cWrite b l = (.goOn, recordWrite b .ok (l.answered 1)) := by
  simp [i2cWrite, h, nextBus_eq_answer, a, dropBus_eq_answered]

theorem i2cWrite_busError (b : Byte) (l : Lcd) (h : l.busHung = false) (a : l.answer 0 = .busError) :
    i2cWrite b l = (.ended, raiseBusError (recordWrite b .busError (l.answered 1))) := by
  simp [i2cWrite, h, nextBus_eq_answer, a, dropBus_eq_answered]

theorem i2cWrite_never (b : Byte) (l : Lcd) (h : l.busHung = false) (a : l.answer 0 = .never) :
    i2cWrite b l = (.waiting, { l.answered 1 with busHung := true }) := by
  simp [i2cWrite, h, nextBus_eq_answer, a, dropBus_eq_answered]

/-! Running a list of steps. -/

theorem runActs_cons (p : LcdPc) (a : LcdAct) (rest : List (LcdPc × LcdAct)) (l : Lcd) (h : l.busHung = false) :
    runActs ((p, a) :: rest) l =
      match lcdAct a { l with pc := p } with
      | (.goOn, l') => runActs rest l'
      | (.ended, l') => (.ended, l')
      | (.waiting, l') => (.waiting, l') := by
  have hb : ¬ l.busHung = true := by simp [h]
  exact (runActs.eq_2 l p a rest).trans (if_neg hb)

/-- A list run in two parts: the second begins where the first went on. -/
theorem runActs_append (xs ys : List (LcdPc × LcdAct)) (l : Lcd) :
    runActs (xs ++ ys) l =
      match runActs xs l with
      | (.goOn, l') => runActs ys l'
      | (.ended, l') => (.ended, l')
      | (.waiting, l') => (.waiting, l') := by
  induction xs generalizing l with
  | nil => rfl
  | cons x xs ih =>
    obtain ⟨p, a⟩ := x
    by_cases h : l.busHung = true
    · simp [runActs, h]
    · have h' : l.busHung = false := by simpa using h
      rw [List.cons_append, runActs_cons _ _ _ _ h', runActs_cons _ _ _ _ h']
      cases hh : lcdAct a { l with pc := p } with
      | mk f l' => cases f <;> simp [ih]

/-- A step never leaves the agent waiting but by a transaction that hangs, and then nothing but that is changed. -/
theorem lcdAct_keeps (a : LcdAct) (l : Lcd) :
    (lcdAct a l).2.addr = l.addr ∧ (lcdAct a l).2.port = l.port ∧
      ((lcdAct a l).1 = .goOn → (lcdAct a l).2.state = l.state ∧ (lcdAct a l).2.text = l.text ∧
        (lcdAct a l).2.pc = l.pc ∧ (lcdAct a l).2.results = l.results ∧ (lcdAct a l).2.busHung = l.busHung) := by
  cases a with
  | wait n => simp [lcdAct]
  | write b =>
    by_cases h : l.busHung = true
    · simp [lcdAct, i2cWrite_hung b l h]
    · have h' : l.busHung = false := by simpa using h
      cases ha : l.answer 0 with
      | ok => simp [lcdAct, i2cWrite_ok b l h' ha]
      | busError => simp [lcdAct, i2cWrite_busError b l h' ha]
      | never => simp [lcdAct, i2cWrite_never b l h' ha]

/-- Running steps changes neither the address nor the port, and while it goes on neither lifecycle, text nor results. -/
theorem runActs_keeps (xs : List (LcdPc × LcdAct)) (l : Lcd) :
    (runActs xs l).2.addr = l.addr ∧ (runActs xs l).2.port = l.port ∧
      ((runActs xs l).1 = .goOn → (runActs xs l).2.state = l.state ∧ (runActs xs l).2.text = l.text ∧
        (runActs xs l).2.results = l.results) := by
  induction xs generalizing l with
  | nil => simp [runActs]
  | cons x xs ih =>
    obtain ⟨p, a⟩ := x
    by_cases h : l.busHung = true
    · simp [runActs, h]
    · have h' : l.busHung = false := by simpa using h
      rw [runActs_cons _ _ _ _ h']
      have hk := lcdAct_keeps a { l with pc := p }
      cases hh : lcdAct a { l with pc := p } with
      | mk f l' =>
        rw [hh] at hk
        cases f with
        | goOn =>
          obtain ⟨h1, h2, h3⟩ := hk
          obtain ⟨g1, g2, -, g4, -⟩ := h3 rfl
          obtain ⟨i1, i2, i3⟩ := ih l'
          exact ⟨i1.trans h1, i2.trans h2, fun e =>
            ⟨(i3 e).1.trans g1, (i3 e).2.1.trans g2, (i3 e).2.2.trans g4⟩⟩
        | ended => exact ⟨hk.1, hk.2.1, by simp⟩
        | waiting => exact ⟨hk.1, hk.2.1, by simp⟩

/-! The far side: what was latched, once unknown, stays so. -/

theorem farFrom_append (cfg : Config) (f : FarSide) (es es' : List LcdEvent) :
    farFrom cfg f (es ++ es') = farFrom cfg (farFrom cfg f es) es' := List.foldl_append

theorem farStep_latched_none (cfg : Config) (f : FarSide) (e : LcdEvent) (h : f.latched = none) :
    (farStep cfg f e).latched = none := by
  unfold farStep
  split
  · exact h
  · rfl
  · split
    · exact h
    · split
      · rfl
      · split <;> simp [h]

theorem farFrom_latched_none (cfg : Config) (f : FarSide) (es : List LcdEvent) (h : f.latched = none) :
    (farFrom cfg f es).latched = none := by
  induction es generalizing f with
  | nil => exact h
  | cons e es ih => exact ih _ (farStep_latched_none cfg f e h)

/-! KP: one cell of a scan, and the sequencer's port. -/

theorem sampleCell_eq (r c : Fin 4) (k : Kp) :
    sampleCell r c k =
      { k.answered 1 with
        grid := k.grid.put r c (k.answer 0)
        events := k.events ++ [.colSample c (k.answer 0)] } := by
  simp [sampleCell, dropColumn_eq_answered, nextColumn_eq_answer]

theorem kpAct_keeps (p : KpPc) (k : Kp) :
    (kpAct p k).port = k.port ∧ (kpAct p k).pc = k.pc ∧ (kpAct p k).results = k.results := by
  cases p <;> simp [kpAct, sampleCell_eq]

theorem kpAdvance_port (k : Kp) : (kpAdvance k).port = k.port := by
  unfold kpAdvance
  split <;> simp [(kpAct_keeps _ k).1]

/-- The handshake has `4 * N_FS8 + 5` steps. -/
theorem initLength_eq (cfg : Config) : initLength cfg = 4 * cfg.nFs8 + 5 := by
  simp only [initLength, nFs4]
  omega

theorem lcdMoveOn_keeps (cfg : Config) (l : Lcd) : (lcdMoveOn cfg l).port = l.port ∧ (lcdMoveOn cfg l).addr = l.addr ∧
    (lcdMoveOn cfg l).events = l.events ∧ (lcdMoveOn cfg l).busAnswers = l.busAnswers ∧ (lcdMoveOn cfg l).busFree = l.busFree := by
  unfold lcdMoveOn
  split
  · simp
  · split <;> simp
  · split
    · simp
    · split
      · simp
      · split <;> simp

theorem lcdAdvance_keeps (cfg : Config) (l : Lcd) :
    (lcdAdvance cfg l).port = l.port ∧ (lcdAdvance cfg l).addr = l.addr := by
  unfold lcdAdvance
  split
  · simp
  · split
    · simp
    · split
      · simp
      · rename_i a _
        have hk := lcdAct_keeps a l
        cases hh : lcdAct a l with
        | mk f l' =>
          rw [hh] at hk
          cases f
          · exact ⟨(lcdMoveOn_keeps cfg l').1.trans hk.2.1, (lcdMoveOn_keeps cfg l').2.1.trans hk.1⟩
          · exact ⟨hk.2.1, hk.1⟩
          · exact ⟨hk.2.1, hk.1⟩

end Sys2Proof.Machine
end

