-- ==== Sys2Proof/Laws/PerInstr.lean ====
section
/-! SUPPORT. Statements for all instructions, one lemma per constructor. -/

namespace Sys2Proof.Laws

open Sys2Proof Sys2Proof.Machine

/-- The bytes an instruction takes on the place it is read, none for an internal procedure (30_encoding.md R63,
section 8; opcode_table.json `length_bytes`). -/
def Encoding.length : Instr → Nat
  | .kpPressedKey => 1
  | .lcdTryNew _ => 2
  | .lcdWriteText text => 2 + text.length
  | .kpScan => 0
  | .kpDecode => 0
  | .kpEdge => 0
  | .nwPulse _ _ => 0
  | .nwSendChar _ => 0
  | .busAssertCmd _ => 1
  | .busAssertChar _ => 1
  | .busRelease => 1

/-- An instruction has bytes exactly if it has a port, under any parameters, and then as many as the table says. -/
def Encoding.Statement (i : Instr) : Prop :=
  ∀ cfg, (i.port.isSome = (encode cfg i).isSome) ∧ ((encode cfg i).getD []).length = Encoding.length i

theorem Encoding.kpPressedKey : Encoding.Statement .kpPressedKey := fun _ => ⟨rfl, rfl⟩
theorem Encoding.lcdTryNew (addr : Addr) : Encoding.Statement (.lcdTryNew addr) := fun _ => ⟨rfl, rfl⟩
theorem Encoding.lcdWriteText (text : List Byte) : Encoding.Statement (.lcdWriteText text) := fun _ =>
  ⟨rfl, by simp [encode, Encoding.length]; omega⟩
theorem Encoding.kpScan : Encoding.Statement .kpScan := fun _ => ⟨rfl, rfl⟩
theorem Encoding.kpDecode : Encoding.Statement .kpDecode := fun _ => ⟨rfl, rfl⟩
theorem Encoding.kpEdge : Encoding.Statement .kpEdge := fun _ => ⟨rfl, rfl⟩
theorem Encoding.nwPulse (payload flags : Byte) : Encoding.Statement (.nwPulse payload flags) := fun _ => ⟨rfl, rfl⟩
theorem Encoding.nwSendChar (c : Byte) : Encoding.Statement (.nwSendChar c) := fun _ => ⟨rfl, rfl⟩
theorem Encoding.busAssertCmd (payload : Byte) : Encoding.Statement (.busAssertCmd payload) := fun _ => ⟨rfl, rfl⟩
theorem Encoding.busAssertChar (nib : Byte) : Encoding.Statement (.busAssertChar nib) := fun _ => ⟨rfl, rfl⟩
theorem Encoding.busRelease : Encoding.Statement .busRelease := fun _ => ⟨rfl, rfl⟩

end Sys2Proof.Laws
end

