-- ==== Sys2Proof/Tests/Slice0.lean ====
section
/-! SUPPORT. Tests of the model, their expected results taken from the spec's tables and vectors, and a witness for the hypotheses of each statement. -/

namespace Sys2Proof.Tests

open Sys2Proof Sys2Proof.Machine

/-! A small state with scripted environment. -/

/-- Reset, with these bytes at the ports, answers of the environment and turns. -/
def start (kpPort : List Byte) (cols : List Bool) (lcdPort : List Byte) (bus : List BusAnswer) (ts : List Turn) : State :=
  { State.reset with
    kp := { Kp.reset with port := kpPort, colAnswers := cols }
    lcd := { Lcd.reset with port := lcdPort, busAnswers := bus }
    turns := ts }

/-- A KP alone, at a position. -/
def kpState (pc : KpPc) (cols : List Bool) (t : Turn) : State :=
  { start [] cols [] [] [t] with kp := { Kp.reset with pc := pc, colAnswers := cols } }

/-- An LCD alone, in a lifecycle state and at a position. -/
def lcdState (st : LcdState) (pc : LcdPc) (text : List Byte) (bus : List BusAnswer) (t : Turn) : State :=
  { start [] [] [] [] [t] with
    lcd := { Lcd.reset with state := st, addr := 0x27, pc := pc, text := text, busAnswers := bus } }

/-- Some view of the next state, if there is one. -/
def view {α : Type} (f : State → α) (o : Host.Outcome State Fault Refusal) : Option α :=
  match o with
  | .next s => some (f s)
  | .fault _ => none
  | .refused _ => none

/-- An ASSERT or RELEASE write at address 0x27 that completes. -/
def wr (b : Byte) : LcdEvent := .busWrite 0x27 b .ok

/-! WellFormed refuses each ill-formed term. -/

theorem test_wf_text_of_256_refused : (Instr.lcdWriteText (List.replicate 256 0x41)).wf defaultConfig = false := by
  show decide ((List.replicate 256 (0x41 : Byte)).length ≤ defaultConfig.textMax) = false
  rw [List.length_replicate]; decide
theorem test_wf_text_of_255_admitted : (Instr.lcdWriteText (List.replicate 255 0x41)).wf defaultConfig = true := by
  show decide ((List.replicate 255 (0x41 : Byte)).length ≤ defaultConfig.textMax) = true
  rw [List.length_replicate]; decide
theorem test_wf_pulse_flags_above_low_bits_refused : (Instr.nwPulse 0x30 0x1C).wf defaultConfig = false := by decide
theorem test_wf_pulse_flags_without_enable_refused : (Instr.nwPulse 0x30 0x08).wf defaultConfig = false := by decide
theorem test_wf_pulse_flags_without_backlight_refused : (Instr.nwPulse 0x30 0x04).wf defaultConfig = false := by decide
theorem test_wf_pulse_admitted : (Instr.nwPulse 0x30 0x0D).wf defaultConfig = true := by decide
theorem test_wf_assert_cmd_low_bits_refused : (Instr.busAssertCmd 0x31).wf defaultConfig = false := by decide
theorem test_wf_assert_char_low_bits_refused : (Instr.busAssertChar 0x41).wf defaultConfig = false := by decide
theorem test_wf_config_equal_control_bits_refused : ({ defaultConfig with displayOn := 0x08 } : Config).wf = false := by decide
theorem test_wf_config_high_control_bit_refused : ({ defaultConfig with displayOn := 0x10 } : Config).wf = false := by decide
theorem test_wf_config_two_bit_backlight_refused : ({ defaultConfig with backlightOn := 0x0A } : Config).wf = false := by decide
theorem test_wf_config_flags_with_enable_refused : ({ defaultConfig with textFlags := 0x05 } : Config).wf = false := by decide
theorem test_wf_config_high_flags_refused : ({ defaultConfig with textFlags := 0x11 } : Config).wf = false := by decide
theorem test_wf_config_equal_commands_refused : ({ defaultConfig with fs8 := 0x20 } : Config).wf = false := by decide
theorem test_wf_config_count_of_two_bytes_refused : ({ defaultConfig with textMax := 256 } : Config).wf = false := by decide
theorem test_wf_default_and_literal_config : defaultConfig.wf = true ∧ literalConfig.wf = true := by decide

/-! Decoding, words written out from 30_encoding.md R53, R54, R59, R60 (95_test_vectors.md V-ENC-1 to V-ENC-8). -/

theorem test_decode_kp_pressed_key : decode defaultConfig .kp [0b00000001] = .instr .kpPressedKey [] := by decide
theorem test_decode_kp_reserved :
    [0x00, 0x02, 0xFF].map (fun b => decode defaultConfig .kp [b])
      = [.reserved (.kpByte 0x00) [], .reserved (.kpByte 0x02) [], .reserved (.kpByte 0xFF) []] := by decide
theorem test_decode_try_new : decode defaultConfig .lcd [0b00010000, 0b00100111] = .instr (.lcdTryNew 0x27) [] := by decide
theorem test_decode_try_new_bit7 :
    decode defaultConfig .lcd [0x10, 0xA7, 0x55] = .reserved (.tryNewOperand 0xA7) [0x55] := by decide
theorem test_decode_write_text :
    decode defaultConfig .lcd [0b00010001, 0b00000010, 0x48, 0x69, 0x10] = .instr (.lcdWriteText [0x48, 0x69]) [0x10] := by
  decide
theorem test_decode_empty_text : decode defaultConfig .lcd [0x11, 0x00] = .instr (.lcdWriteText []) [] := by decide
theorem test_decode_short_text : decode defaultConfig .lcd [0x11, 0x02, 0x48] = .incomplete := by decide
theorem test_decode_text_above_text_max :
    [[0x11, 0x01, 0x41], [0x11, 0x02, 0x41, 0x42, 0x10]].map (decode { defaultConfig with textMax := 1 } .lcd)
      = [.instr (.lcdWriteText [0x41]) [], .reserved (.textCount 0x02) [0x10]] := by decide
theorem test_decode_lcd_reserved_takes_no_operand :
    [0x00, 0x01, 0x12, 0xFF].map (fun b => decode defaultConfig .lcd [b, 0x27])
      = [.reserved (.lcdOpcode 0x00) [0x27], .reserved (.lcdOpcode 0x01) [0x27], .reserved (.lcdOpcode 0x12) [0x27],
         .reserved (.lcdOpcode 0xFF) [0x27]] := by decide
theorem test_decode_assert_cmd : decode defaultConfig .bus [0b00101100] = .instr (.busAssertCmd 0x20) [] := by decide
theorem test_decode_assert_char : decode defaultConfig .bus [0b11111101] = .instr (.busAssertChar 0xF0) [] := by decide
theorem test_decode_release : decode defaultConfig .bus [0b00001000] = .instr .busRelease [] := by decide
theorem test_decode_bus_reserved : decode defaultConfig .bus [0x18] = .reserved (.busByte 0x18) [] := by decide
theorem test_table_words :
    [(8, 0x01), (16, 0x1027), (8, 0x11), (8, 0x3C), (8, 0x4D), (8, 0x08)].map (fun x => decodeTableWord x.1 x.2)
      = [some .kpPressedKey, some (.lcdTryNew 0x27), some (.lcdWriteText []), some (.busAssertCmd 0x30),
         some (.busAssertChar 0x40), some .busRelease] := by decide
theorem test_encode_words :
    encode defaultConfig (.lcdWriteText [0x48, 0x69]) = some [0x11, 0x02, 0x48, 0x69] ∧
      encode defaultConfig (.lcdTryNew 0x27) = some [0x10, 0x27] ∧ encode defaultConfig .kpScan = none := by decide

/-! Placing a table word: the next step runs that instruction. -/

theorem test_fetch_pressed_key :
    step ((kpState .idle (List.replicate 16 false) .lcd).withFetchWord 8 0x01)
      = exec .kpPressedKey (kpState .idle (List.replicate 16 false) .lcd) := by rfl
theorem test_fetch_try_new :
    step ((lcdState .uninit .idle [] [.busError] .kp).withFetchWord 16 0x1027)
      = exec (.lcdTryNew 0x27) (lcdState .uninit .idle [] [.busError] .kp) := by rfl
theorem test_fetch_assert_cmd :
    view (fun s => s.lcd.events) (step ((lcdState .uninit .idle [] [.ok] .kp).withFetchWord 8 0xAC)) = some [wr 0xAC] := by
  decide
theorem test_fetch_assert_char :
    view (fun s => s.lcd.events) (step ((lcdState .uninit .idle [] [.ok] .kp).withFetchWord 8 0x5D)) = some [wr 0x5D] := by
  decide
theorem test_fetch_release :
    view (fun s => s.lcd.events) (step ((lcdState .uninit .idle [] [.ok] .kp).withFetchWord 8 0x08)) = some [wr 0x08] := by
  decide

/-! Values: 20_memory.md R31, 30_encoding.md R50, R51, R57; 95_test_vectors.md 2.4, V-NW-4 to V-NW-14. -/

theorem test_keymap :
    cells.map (fun rc => lutRead rc.1 rc.2)
      = [.One, .Two, .Three, .A, .Four, .Five, .Six, .B, .Seven, .Eight, .Nine, .C, .Wildcard, .Zero, .Pound, .D] := by decide
theorem test_key_codes_in_table_order :
    cells.map (fun rc => (lutRead rc.1 rc.2).code)
      = [0x1, 0x2, 0x3, 0xA, 0x4, 0x5, 0x6, 0xB, 0x7, 0x8, 0x9, 0xC, 0xE, 0x0, 0xF, 0xD] := by decide
theorem test_key_words :
    [none, some Key.Zero, some .Six, some .Eight, some .Wildcard, some .Pound].map keyWord
      = [0x00, 0x10, 0x16, 0x18, 0x1E, 0x1F] := by decide
theorem test_result_words :
    [LcdResult.ok, .busError, .refused].map LcdResult.word = [0b00, 0b01, 0b10] ∧
      (KpResult.refused.word, KpResult.refused.isRefused) = (0x00, true) := by decide
theorem test_grid_words :
    (pressed [(1, 2)]).word = 0x0040 ∧ (pressed [(0, 0), (2, 1)]).word = 0x0201 ∧ (pressed [(1, 0), (1, 3)]).word = 0x0090 := by
  decide
theorem test_nibble_split :
    [(0x41 : Byte), 0xFF, 0x0A, 0x80, 0x7E].map (fun c => (hiNibble c, loNibble c))
      = [(0x40, 0x10), (0xF0, 0xF0), (0x00, 0xA0), (0x80, 0x00), (0x70, 0xE0)] := by decide
theorem test_split_loses_nothing : ∀ c : Byte, c = hiNibble c ||| loNibble c >>> 4 := by decide

/-! KP: 95_test_vectors.md V-KP-7, V-KP-18 to V-KP-27, P1. -/

theorem test_scan_of_one_key :
    view (fun s => (s.kp.grid.word, s.kp.rowOut)) (exec .kpScan (kpState .idle (idealAnswers (pressed [(1, 2)])) .kp))
      = some (0x0040, 0) := by decide
theorem test_scan_events_of_row_1 :
    view (fun s => (s.kp.events.drop 6).take 6) (exec .kpScan (kpState .idle (idealAnswers (pressed [(1, 2)])) .kp))
      = some [.rowSet 1 true, .colSample 0 false, .colSample 1 false, .colSample 2 true, .colSample 3 false,
              .rowSet 1 false] := by decide
theorem test_decode_ties :
    [pressed [(0, 0), (2, 1)], pressed [(1, 0), (1, 3)], pressed [(0, 2), (3, 2)], pressed cells, pressed []].map decodeGrid
      = [some .Eight, some .B, some .Pound, some .D, none] := by decide
theorem test_edge_zero_is_not_none :
    view (fun s => (s.kp.ret, s.kp.lastReportedKey))
        (exec .kpEdge { State.reset with kp := { Kp.reset with lastReportedKey := some .Zero, candidate := none } })
      = some (none, none) := by decide
theorem test_edge_other_key :
    view (fun s => (s.kp.ret, s.kp.lastReportedKey))
        (exec .kpEdge { State.reset with kp := { Kp.reset with lastReportedKey := some .Five, candidate := some .One } })
      = some (some .One, some .One) := by decide
theorem test_pressed_key_reports :
    view (fun s => (s.kp.results, s.kp.lastReportedKey, s.kp.pc))
        (exec .kpPressedKey (kpState .idle (idealAnswers (pressed [(1, 2)])) .kp))
      = some ([.key (some .Six)], some .Six, .idle) := by decide

/-! NW and bus bytes: 95_test_vectors.md V-NW-1, V-NW-4 and the full trace of SEND_CHAR. -/

theorem test_pulse_of_fs8 :
    view (fun s => s.lcd.events) (exec (.nwPulse 0x30 0x0C) (lcdState .uninit .idle [] [.ok, .ok] .lcd))
      = some [wr 0x3C, .delay 1, wr 0x08, .delay 5] := by decide
theorem test_send_char_A :
    view (fun s => s.lcd.events) (exec (.nwSendChar 0x41) (lcdState .ready .idle [] [.ok, .ok, .ok, .ok] .lcd))
      = some [wr 0x4D, .delay 1, wr 0x08, .delay 5, wr 0x1D, .delay 1, wr 0x08, .delay 5] := by decide
theorem test_assert_char_byte :
    view (fun s => s.lcd.events) (exec (.busAssertChar 0xA0) (lcdState .ready .idle [] [.ok] .lcd)) = some [wr 0xAD] := by
  decide
theorem test_assert_cmd_byte :
    view (fun s => s.lcd.events) (exec (.busAssertCmd 0x20) (lcdState .uninit .idle [] [.ok] .lcd)) = some [wr 0x2C] := by
  decide
theorem test_release_byte :
    view (fun s => s.lcd.events) (exec .busRelease (lcdState .ready .idle [] [.ok] .lcd)) = some [wr 0x08] := by decide

/-! LCD: 95_test_vectors.md V-LCD-1, V-LCD-2, V-LCD-4, V-LCD-5, V-LCD-6, V-LCD-8, V-LCD-13, V-LCD-14, V-FAR-1. -/

theorem test_handshake :
    view (fun s => (s.lcd.events, s.lcd.results, s.lcd.state))
        (exec (.lcdTryNew 0x27) (lcdState .uninit .idle [] (List.replicate 8 .ok) .lcd))
      = some ([.delay 80, wr 0x3C, .delay 1, wr 0x08, .delay 5, wr 0x3C, .delay 1, wr 0x08, .delay 5,
               wr 0x3C, .delay 1, wr 0x08, .delay 5, wr 0x2C, .delay 1, wr 0x08, .delay 5], [.ok], .ready) := by decide
/-- The other reading of 90_conflicts.md C1, 95_test_vectors.md: 21 events, 10 writes, 110 ms. -/
theorem test_handshake_of_four :
    view (fun s => (s.lcd.events.length, writeCount s.lcd.events, delaySum s.lcd.events, s.lcd.events[13]?, s.lcd.events[17]?))
        (exec (.lcdTryNew 0x27)
          { lcdState .uninit .idle [] (List.replicate 10 .ok) .lcd with cfg := { defaultConfig with nFs8 := 4 } })
      = some (21, 10, 110, some (wr 0x3C), some (wr 0x2C)) := by decide
theorem test_handshake_write_3_fails :
    view (fun s => (s.lcd.events, s.lcd.results, s.lcd.state, s.status))
        (exec (.lcdTryNew 0x27) (lcdState .uninit .idle [] [.ok, .ok, .busError] .lcd))
      = some ([.delay 80, wr 0x3C, .delay 1, wr 0x08, .delay 5, .busWrite 0x27 0x3C .busError], [.busError], .failed,
              0b1000) := by decide
theorem test_handshake_write_3_hangs :
    view (fun s => (s.lcd.events.length, s.lcd.results, s.lcd.pc, s.status))
        (exec (.lcdTryNew 0x27) (lcdState .uninit .idle [] [.ok, .ok, .never] .lcd))
      = some (5, [], .init 5, 0b0010) := by decide
theorem test_text_write_2_fails :
    view (fun s => (s.lcd.events, s.lcd.results, s.lcd.state))
        (exec (.lcdWriteText [0x41]) (lcdState .ready .idle [] [.ok, .busError] .lcd))
      = some ([wr 0x4D, .delay 1, .busWrite 0x27 0x08 .busError], [.busError], .ready) := by decide
theorem test_text_literal_config :
    view (fun s => s.lcd.events)
        (exec (.lcdWriteText [0x41])
          { lcdState .ready .idle [] [.ok, .ok, .ok, .ok] .lcd with cfg := literalConfig })
      = some [wr 0x4C, .delay 1, wr 0x08, .delay 5, wr 0x1C, .delay 1, wr 0x08, .delay 5] := by decide
theorem test_text_before_handshake_refused :
    view (fun s => (s.lcd.events, s.lcd.results)) (exec (.lcdWriteText [0x41]) (lcdState .uninit .idle [] [] .lcd))
      = some ([], [.refused]) := by decide
theorem test_far_side_of_handshake :
    view (fun s => (farSide s.cfg s.lcd.events).latched)
        (exec (.lcdTryNew 0x27) (lcdState .uninit .idle [] (List.replicate 8 .ok) .lcd))
      = some (some [(0x3, 0xC), (0x3, 0xC), (0x3, 0xC), (0x2, 0xC)]) := by decide
theorem test_reset_mid_handshake :
    view (fun s => (s.lcd.pc, s.lcd.state, s.lcd.results, s.status)) (step (lcdState .uninit (.init 5) [] [] .rst))
      = some (.idle, .uninit, [], 0b0000) := by decide

theorem test_reset_inside_a_pulse_keeps_the_pins_only :
    view (fun s => s.lcd.farView s.cfg)
        (step { lcdState .uninit (.init 2) [] [] .rst with lcd := { Lcd.reset with pc := .init 2, events := [wr 0x3C] } })
      = some { pins := some 0x3C, latched := none } := by decide
theorem test_idle_reset_keeps_the_far_side :
    view (fun s => s.lcd.farView s.cfg)
        (step { start [] [] [] [] [.rst] with lcd := { Lcd.reset with state := .ready, events := [wr 0x2C, wr 0x08] } })
      = some { pins := some 0x08, latched := some [(0x2, 0xC)] } := by decide

/-! Witnesses: for each statement with hypotheses, states and operands that meet them all, clause by clause. -/

/-- A safe state in the middle of a scan, with row 2 high, and in the middle of a text. -/
def busy : State :=
  { start [0x01] [true] [0x10, 0x27] [.ok] [.lcdEvent] with
    kp := { Kp.reset with
      pc := .sample 2 1, rowOut := 0b0100, colAnswers := [true], port := [0x01]
      events := [.rowSet 1 true, .rowSet 1 false, .rowSet 2 true, .colSample 0 false] }
    lcd := { Lcd.reset with
      state := .ready, addr := 0x27, pc := .text 0 .lo 2, text := [0x41], busAnswers := [.ok], port := [0x10, 0x27]
      events := [.delay 80, wr 0x4D, .delay 1, wr 0x08, .delay 5, wr 0x1D, .delay 1] } }

theorem witness_DecodeOfEncodeGivesTheInstruction :
    (defaultConfig.wf = true ∧ (Instr.busAssertChar 0xF0).wf defaultConfig = true ∧
      (Instr.busAssertChar 0xF0).port = some .bus ∧ encode defaultConfig (.busAssertChar 0xF0) = some [0xFD] ∧
      defaultConfig.textFlags ≠ 0) ∧
    (literalConfig.wf = true ∧ (Instr.busAssertChar 0xF0).wf literalConfig = true ∧
      encode literalConfig (.busAssertChar 0xF0) = some [0xFC] ∧ literalConfig.textFlags = 0) := by decide

theorem witness_EncodeOfDecodeGivesTheBytes :
    defaultConfig.wf = true ∧ decode defaultConfig .lcd [0x11, 0x01, 0xFF, 0x10] = .instr (.lcdWriteText [0xFF]) [0x10] := by
  decide

theorem witness_StepRunsTheDecodedInstruction :
    (∃ s : State, s.turn = .kp ∧ s.kp.pc = .idle ∧ decode s.cfg .kp s.kp.port = .instr .kpPressedKey [0x01]) ∧
    (∃ s : State, s.turn = .lcd ∧ s.lcd.pc = .idle ∧ decode s.cfg .lcd s.lcd.port = .instr (.lcdTryNew 0x7F) []) ∧
    (∃ s : State, s.turn = .kpEvent ∧ s.kp.pc = .decode) ∧ (∃ s : State, s.turn = .kp ∧ s.kp.pc = .edge) :=
  ⟨⟨start [0x01, 0x01] [] [] [] [.kp], by decide⟩, ⟨start [] [] [0x10, 0x7F] [] [.lcd], by decide⟩,
    ⟨kpState .decode [] .kpEvent, by decide⟩, ⟨kpState .edge [] .kp, by decide⟩⟩

theorem witness_WritePositionsRunTheBusByteForms :
    (∃ s : State, s.turn = .lcd ∧ s.lcd.busHung = false ∧ s.lcd.pc = .init 1) ∧
    (∃ s : State, s.turn = .lcdEvent ∧ s.lcd.busHung = false ∧ s.lcd.pc = .init 13) ∧
    (∃ s : State, s.turn = .lcd ∧ s.lcd.busHung = false ∧ s.lcd.pc = .init 15) ∧
    (∃ s : State, s.turn = .lcd ∧ s.lcd.busHung = false ∧ s.lcd.pc = .text 1 .hi 0 ∧ s.lcd.text[1]? = some 0xFF) ∧
    (∃ s : State, s.turn = .lcd ∧ s.lcd.busHung = false ∧ s.lcd.pc = .text 0 .lo 0 ∧ s.lcd.text[0]? = some 0x41) ∧
    (∃ s : State, s.turn = .lcd ∧ s.lcd.busHung = false ∧ s.lcd.pc = .text 0 .lo 2 ∧ s.lcd.text[0]? = some 0x41) :=
  ⟨⟨lcdState .uninit (.init 1) [] [.ok] .lcd, by decide⟩, ⟨lcdState .uninit (.init 13) [] [.never] .lcdEvent, by decide⟩,
    ⟨lcdState .uninit (.init 15) [] [.busError] .lcd, by decide⟩,
    ⟨lcdState .ready (.text 1 .hi 0) [0x41, 0xFF] [.ok] .lcd, by decide⟩,
    ⟨lcdState .ready (.text 0 .lo 0) [0x41] [.ok] .lcd, by decide⟩,
    ⟨lcdState .ready (.text 0 .lo 2) [0x41] [.ok] .lcd, by decide⟩⟩

theorem witness_RefusedCommandsHaveNoEffect :
    (∃ s : State, s.turn = .kp ∧ s.kp.pc = .idle ∧ s.kp.port = (0x02 : Byte) :: [0x01]) ∧
    (∃ s : State, s.turn = .lcd ∧ s.lcd.pc = .idle ∧ s.lcd.port = (0x12 : Byte) :: [0x10]) ∧
    (∃ s : State, s.turn = .lcd ∧ s.lcd.pc = .idle ∧ s.lcd.port = (0x10 : Byte) :: 0x80 :: [] ∧ (0x80 : Byte).getLsbD 7 = true) ∧
    (∃ s : State, s.turn = .lcd ∧ s.lcd.pc = .idle ∧ s.lcd.state ≠ .uninit ∧ s.lcd.port = (0x10 : Byte) :: 0x27 :: []) ∧
    (∃ s : State, s.turn = .lcd ∧ s.lcd.pc = .idle ∧ s.lcd.state ≠ .ready ∧ [(0x41 : Byte)].length = (0x01 : Byte).toNat ∧
      s.lcd.port = (0x11 : Byte) :: 0x01 :: ([0x41] ++ [0x10])) ∧
    (∃ s : State, s.turn = .lcd ∧ s.lcd.pc = .idle ∧ s.cfg.textMax < (0x01 : Byte).toNat ∧
      [(0x41 : Byte)].length = (0x01 : Byte).toNat ∧ s.lcd.port = (0x11 : Byte) :: 0x01 :: ([0x41] ++ [0x10])) :=
  ⟨⟨start [0x02, 0x01] [] [] [] [.kp], by decide⟩, ⟨start [] [] [0x12, 0x10] [] [.lcd], by decide⟩,
    ⟨start [] [] [0x10, 0x80] [] [.lcd], by decide⟩,
    ⟨{ start [] [] [] [] [.lcd] with lcd := { Lcd.reset with state := .failed, port := [0x10, 0x27] } }, by decide⟩,
    ⟨start [] [] [0x11, 0x01, 0x41, 0x10] [] [.lcd], by decide⟩,
    ⟨{ start [] [] [0x11, 0x01, 0x41, 0x10] [] [.lcd] with cfg := { defaultConfig with textMax := 0 } }, by decide⟩⟩

theorem witness_BusyAgentTakesNoCommand :
    (∃ s t : State, s.kp.pc ≠ .idle ∧ s.turn = .kp ∧ step s = .next t) ∧
    (∃ s t : State, s.lcd.pc ≠ .idle ∧ s.turn = .lcdEvent ∧ step s = .next t) :=
  ⟨⟨kpState (.rowHi 0) [] .kp, _, by decide, by decide, rfl⟩, ⟨busy, _, by decide, by decide, rfl⟩⟩

theorem witness_DecodeIsAPriorityEncoder :
    (∃ s : State, s.kp.grid.word = 0) ∧
    (∃ s : State, s.kp.grid.word.getLsbD 15 = true ∧ ∀ j : Fin 16, (15 : Fin 16) < j → s.kp.grid.word.getLsbD j.val = false) ∧
    (∃ s : State, s.kp.grid.word.getLsbD 0 = true ∧ ∀ j : Fin 16, (0 : Fin 16) < j → s.kp.grid.word.getLsbD j.val = false) :=
  ⟨⟨State.reset, by decide⟩, ⟨{ State.reset with kp := { Kp.reset with grid := pressed [(3, 3)] } }, by decide⟩,
    ⟨{ State.reset with kp := { Kp.reset with grid := pressed [(0, 0)] } }, by decide⟩⟩

theorem witness_EdgeReportsOnlyAChange :
    (∃ s : State, s.kp.candidate = s.kp.lastReportedKey) ∧ (∃ s : State, s.kp.candidate ≠ s.kp.lastReportedKey) :=
  ⟨⟨State.reset, by decide⟩, ⟨{ State.reset with kp := { Kp.reset with candidate := some .Zero } }, by decide⟩⟩

theorem witness_PressedKeyScansDecodesAndReports :
    ∃ (s : State) (c out : Option Key), s.kp.pc = .idle ∧ c = decodeGrid (answeredGrid s.kp) ∧
      out = (if c = s.kp.lastReportedKey then none else c) ∧ out = some .Six :=
  ⟨kpState .idle (idealAnswers (pressed [(1, 2)])) .kp, some .Six, some .Six, by decide⟩

theorem witness_CallsReportEachTransitionOnce :
    ∃ s : State, s.kp.pc = .idle ∧ s.kp.port = List.replicate 2 (0x01 : Byte) ++ [0x07] ∧
      s.turns = List.replicate 2 Turn.kp ++ [.rst] :=
  ⟨start [0x01, 0x01, 0x07] [] [] [] [.kp, .kp, .rst], by decide⟩

theorem witness_IdealMatrixReportsTheKeyHeld :
    ∃ s : State, s.kp.pc = .idle ∧ s.kp.colAnswers = idealAnswers (pressed [(3, 3)]) ++ [true] ∧
      s.kp.lastReportedKey ≠ some (lutRead 3 3) :=
  ⟨kpState .idle (idealAnswers (pressed [(3, 3)]) ++ [true]) .kp, by decide⟩

theorem witness_KpSequencerFollowsTheFixedOrder :
    (∃ s t : State, s.turn = .kpEvent ∧ step s = .next t ∧ s.kp.pc = .idle ∧ s.kp.port = (0x01 : Byte) :: []) ∧
    [KpPc.rowHi 3, .sample 3 0, .sample 0 1, .sample 2 2, .sample 3 3, .rowLo 0, .rowLo 1, .rowLo 2, .rowLo 3, .decode,
      .edge].all (fun p => decide ((kpState p [true] .kpEvent).turn = .kpEvent ∧ (kpState p [true] .kpEvent).kp.pc = p)) = true ∧
    (∀ p, ∃ t, step (kpState p [true] .kpEvent) = .next t) :=
  ⟨⟨start [0x01] [] [] [] [.kpEvent], _, by decide, rfl, by decide, by decide⟩, by decide, fun _ => ⟨_, rfl⟩⟩

theorem witness_AtomicPressedKeyEqualsItsEvents :
    ∃ s : State, s.kp.pc = .idle ∧ s.kp.port = (0x01 : Byte) :: [0x01] := ⟨start [0x01, 0x01] [] [] [] [], by decide⟩

theorem witness_busy_is_safe : busy.Inv ∧ busy.cfg.wf = true := by decide

theorem witness_ExactlyOneRowHighAtEverySample :
    busy.Inv ∧ busy.kp.events = [.rowSet 1 true, .rowSet 1 false, .rowSet 2 true] ++ .colSample 0 false :: [] ∧
      (State.reset.Inv ∧ State.reset.kp.pc = .idle) := by decide

theorem witness_EachRowIsReleasedBeforeTheNext :
    busy.Inv ∧ busy.kp.events
      = [] ++ .rowSet 1 true :: ([.rowSet 1 false] ++ .rowSet 2 true :: [.colSample 0 false]) := by decide

theorem witness_PulseIsAssertWaitReleaseWait :
    ∃ s : State, s.lcd.busHung = false ∧ s.lcd.allOk 2 :=
  ⟨lcdState .uninit (.init 1) [] [.ok, .ok] .lcd, by decide, by unfold Lcd.allOk; decide⟩

theorem witness_PulseStopsAtTheFailingWrite :
    (∃ s : State, s.lcd.busHung = false ∧ (∃ i, s.lcd.pc = .init i) ∧ s.lcd.answer 0 = .busError) ∧
    (∃ s : State, s.lcd.busHung = false ∧ (∃ j h q, s.lcd.pc = .text j h q) ∧ s.lcd.answer 0 = .ok ∧
      s.lcd.answer 1 = .busError) :=
  ⟨⟨lcdState .uninit (.init 13) [] [.busError] .lcd, by decide, ⟨13, by decide⟩, by decide⟩,
    ⟨lcdState .ready (.text 0 .lo 0) [0x41] [.ok, .busError] .lcd, by decide, ⟨0, .lo, 0, by decide⟩, by decide⟩⟩

theorem witness_SendCharSendsHighThenLowNibble :
    (∃ s : State, s.lcd.busHung = false ∧ s.lcd.allOk 4) ∧
    (∃ s : State, s.lcd.busHung = false ∧ s.lcd.allOk 3 ∧ s.lcd.answer 3 = .busError ∧ ∃ j h q, s.lcd.pc = .text j h q) ∧
    (∃ s : State, s.lcd.busHung = false ∧ s.lcd.allOk 0 ∧ s.lcd.answer 0 = .busError ∧ ∃ i, s.lcd.pc = .init i) :=
  ⟨⟨lcdState .ready (.text 0 .hi 0) [0x41] [.ok, .ok, .ok, .ok] .lcd, by decide, by unfold Lcd.allOk; decide⟩,
    ⟨lcdState .ready (.text 0 .hi 0) [0x41] [.ok, .ok, .ok, .busError] .lcd, by decide, by unfold Lcd.allOk; decide,
      by decide, ⟨0, .hi, 0, by decide⟩⟩,
    ⟨lcdState .uninit (.init 1) [] [.busError] .lcd, by decide, by unfold Lcd.allOk; decide, by decide, ⟨1, by decide⟩⟩⟩

theorem witness_AssertByteFormsAreOneWriteEach :
    ∃ s : State, s.cfg.wf = true ∧ s.lcd.busHung = false ∧ s.lcd.answer 0 = .ok :=
  ⟨lcdState .uninit (.init 1) [] [.ok] .lcd, by decide⟩

theorem witness_ReleaseByteFormIsOneWrite :
    ∃ s : State, s.cfg.wf = true ∧ s.lcd.busHung = false ∧ s.lcd.answer 0 = .ok :=
  ⟨lcdState .uninit (.init 3) [] [.ok] .lcd, by decide⟩

theorem witness_BusWritesMayFailOrNeverComplete :
    (∃ s : State, s.lcd.busHung = false ∧ (∃ n, s.lcd.pc = .init n) ∧ s.lcd.answer 0 = .never) ∧
    (∃ s : State, s.lcd.busHung = false ∧ (∃ j h q, s.lcd.pc = .text j h q) ∧ s.lcd.answer 0 = .busError) ∧
    (∃ s : State, s.lcd.busHung = false ∧ s.lcd.allOk 1 ∧ s.lcd.answer 1 = .never) ∧
    (∃ s : State, s.lcd.busHung = false ∧ s.lcd.allOk 3 ∧ s.lcd.answer 3 = .never) :=
  ⟨⟨lcdState .uninit (.init 15) [] [.never] .lcd, by decide, ⟨15, by decide⟩, by decide⟩,
    ⟨lcdState .ready (.text 0 .hi 2) [0x41] [.busError] .lcd, by decide, ⟨0, .hi, 2, by decide⟩, by decide⟩,
    ⟨lcdState .uninit (.init 1) [] [.ok, .never] .lcd, by decide, by unfold Lcd.allOk; decide, by decide⟩,
    ⟨lcdState .ready (.text 0 .hi 0) [0x41] [.ok, .ok, .ok, .never] .lcd, by decide, by unfold Lcd.allOk; decide,
      by decide⟩⟩

theorem witness_NothingBeginsWhileATransactionHangs :
    ∃ s : State, s.lcd.busHung = true :=
  ⟨{ State.reset with lcd := { Lcd.reset with busHung := true, pc := .init 5 } }, by decide⟩

theorem witness_TryNewRunsTheHandshakeToItsEndOrFirstFailure :
    (∃ s : State, s.lcd.pc = .idle ∧ s.lcd.state ≠ .uninit) ∧
    (∃ s : State, s.turn = .lcd ∧ s.lcd.pc = .idle ∧ s.lcd.port = 0x10 :: 0x80 :: [] ∧ (0x80 : Byte).getLsbD 7 = true) ∧
    (∃ s : State, s.lcd.pc = .idle ∧ s.lcd.state = .uninit ∧ s.lcd.busHung = false ∧ s.lcd.allOk (2 * s.cfg.nFs8 + 2)) ∧
    (∃ s : State, s.lcd.pc = .idle ∧ s.lcd.state = .uninit ∧ s.lcd.busHung = false ∧ s.lcd.allOk 0 ∧
      s.lcd.answer 0 = .busError) ∧
    (∃ s : State, s.lcd.pc = .idle ∧ s.lcd.state = .uninit ∧ s.lcd.busHung = false ∧ 7 < 2 * s.cfg.nFs8 + 2 ∧
      s.lcd.allOk 7 ∧ s.lcd.answer 7 = .busError) ∧
    defaultConfig.nFs8 = 3 :=
  ⟨⟨lcdState .failed .idle [] [] .lcd, by decide⟩, ⟨start [] [] [0x10, 0x80] [] [.lcd], by decide⟩,
    ⟨lcdState .uninit .idle [] (List.replicate 8 .ok) .lcd, by decide, by decide, by decide, by unfold Lcd.allOk; decide⟩,
    ⟨lcdState .uninit .idle [] [.busError] .lcd, by decide, by decide, by decide, by unfold Lcd.allOk; decide, by decide⟩,
    ⟨lcdState .uninit .idle [] (List.replicate 7 .ok ++ [.busError]) .lcd, by decide, by decide, by decide, by decide,
      by unfold Lcd.allOk; decide, by decide⟩, by decide⟩

theorem witness_WriteTextSendsEachCharacterInOrder :
    (∃ s : State, s.lcd.pc = .idle ∧ s.lcd.state ≠ .ready) ∧
    (∃ s : State, s.lcd.pc = .idle ∧ s.lcd.state = .ready ∧ s.lcd.busHung = false ∧ s.lcd.allOk (4 * [0x41, (0x42 : Byte)].length)) ∧
    (∃ s : State, s.lcd.pc = .idle ∧ s.lcd.state = .ready ∧ s.lcd.busHung = false ∧ 7 < 4 * [0x41, (0x42 : Byte)].length ∧
      s.lcd.allOk 7 ∧ s.lcd.answer 7 = .busError) :=
  ⟨⟨lcdState .uninit .idle [] [] .lcd, by decide⟩,
    ⟨lcdState .ready .idle [] (List.replicate 8 .ok) .lcd, by decide, by decide, by decide, by unfold Lcd.allOk; decide⟩,
    ⟨lcdState .ready .idle [] (List.replicate 7 .ok ++ [.busError]) .lcd, by decide, by decide, by decide, by decide,
      by unfold Lcd.allOk; decide, by decide⟩⟩

theorem witness_EventCountsAndDelaySums :
    (∃ s t : State, s.lcd.pc = .idle ∧ s.lcd.state = .uninit ∧ s.lcd.busHung = false ∧ s.lcd.allOk (2 * s.cfg.nFs8 + 2) ∧
      exec (.lcdTryNew 0x27) s = .next t ∧ 17 = 4 * s.cfg.nFs8 + 5 ∧ 8 = 2 * s.cfg.nFs8 + 2 ∧ 104 = 6 * s.cfg.nFs8 + 86 ∧
      s.cfg.nFs8 = 3) ∧
    (∃ s t : State, s.lcd.pc = .idle ∧ s.lcd.state = .ready ∧ s.lcd.busHung = false ∧ s.lcd.allOk (4 * [(0x41 : Byte)].length) ∧
      exec (.lcdWriteText [0x41]) s = .next t) :=
  ⟨⟨lcdState .uninit .idle [] (List.replicate 8 .ok) .lcd, _, by decide, by decide, by decide, by unfold Lcd.allOk; decide, rfl,
      by decide⟩,
    ⟨lcdState .ready .idle [] (List.replicate 4 .ok) .lcd, _, by decide, by decide, by decide, by unfold Lcd.allOk; decide, rfl⟩⟩

theorem witness_BusErrorEndsTheOperationAtOnce :
    (∃ s : State, s.turn = .lcd ∧ s.lcd.busHung = false ∧ stepAt s.cfg s.lcd.text s.lcd.pc = some (.write 0x2C) ∧
      s.lcd.answer 0 = .busError ∧ ∃ i, s.lcd.pc = .init i) ∧
    (∃ s : State, s.turn = .lcdEvent ∧ s.lcd.busHung = false ∧ stepAt s.cfg s.lcd.text s.lcd.pc = some (.write 0x08) ∧
      s.lcd.answer 0 = .busError ∧ ∃ j h q, s.lcd.pc = .text j h q) :=
  ⟨⟨lcdState .uninit (.init 13) [] [.busError] .lcd, by decide, by decide, by decide, by decide, ⟨13, by decide⟩⟩,
    ⟨lcdState .ready (.text 0 .lo 2) [0x41] [.busError] .lcdEvent, by decide, by decide, by decide, by decide,
      ⟨0, .lo, 2, by decide⟩⟩⟩

theorem witness_HungTransactionStopsLcdForEver :
    (∃ s : State, s.lcd.pc = .idle ∧ s.lcd.state = .uninit ∧ s.lcd.busHung = false ∧ 7 < 2 * s.cfg.nFs8 + 2 ∧
      s.lcd.allOk 7 ∧ s.lcd.answer 7 = .never) ∧
    (∃ s : State, s.lcd.pc = .idle ∧ s.lcd.state = .ready ∧ s.lcd.busHung = false ∧ 7 < 4 * [0x41, (0x42 : Byte)].length ∧
      s.lcd.allOk 7 ∧ s.lcd.answer 7 = .never ∧ 7 = 4 * 1 + (if Half.lo = .hi then 0 else 2) + (2 : Fin 4).val / 2) ∧
    (∃ s : State, s.lcd.busHung = true ∧ s.lcd.pc ≠ .idle ∧ s.turn = .lcd) ∧
    (∃ s t t' : State, s.turn = .kp ∧ step s = .next t ∧
      step { s with lcd := { s.lcd with busHung := true } } = .next t') :=
  ⟨⟨lcdState .uninit .idle [] (List.replicate 7 .ok ++ [.never]) .lcd, by decide, by decide, by decide, by decide,
      by unfold Lcd.allOk; decide, by decide⟩,
    ⟨lcdState .ready .idle [] (List.replicate 7 .ok ++ [.never]) .lcd, by decide, by decide, by decide, by decide,
      by unfold Lcd.allOk; decide, by decide⟩,
    ⟨{ start [] [] [] [] [.lcd] with lcd := { Lcd.reset with busHung := true, pc := .init 5 } }, by decide⟩,
    ⟨start [0x01] [] [] [] [.kp], _, _, by decide, rfl, rfl⟩⟩

theorem witness_LcdSequencerFollowsTheFixedOrder :
    (∃ s t : State, s.Inv ∧ s.turn = .lcdEvent ∧ step s = .next t ∧ s.lcd.busHung = false ∧ s.lcd.answer 0 = .ok ∧
      s.lcd.pc = .init 0) ∧
    (∃ s t : State, s.Inv ∧ s.turn = .lcdEvent ∧ step s = .next t ∧ s.lcd.busHung = false ∧ isWritePos s.lcd.pc = false ∧
      s.lcd.pc = .init 16) ∧
    (∃ s t : State, s.Inv ∧ s.turn = .lcdEvent ∧ step s = .next t ∧ s.lcd.busHung = false ∧ s.lcd.answer 0 = .ok ∧
      s.lcd.pc = .text 0 .lo 2) ∧
    (∃ s t : State, s.Inv ∧ s.turn = .lcdEvent ∧ step s = .next t ∧ s.lcd.busHung = false ∧ isWritePos s.lcd.pc = false ∧
      s.lcd.pc = .text 0 .lo 3 ∧ 0 + 1 = s.lcd.text.length) :=
  ⟨⟨lcdState .uninit (.init 0) [] [.ok] .lcdEvent, _, by decide, by decide, rfl, by decide⟩,
    ⟨{ start [] [] [] [] [.lcdEvent] with
        lcd := { Lcd.reset with addr := 0x27, pc := .init 16, events := [.delay 80, wr 0x2C, .delay 1, wr 0x08] } },
      _, by decide, by decide, rfl, by decide⟩,
    ⟨busy, _, by decide, by decide, rfl, by decide⟩,
    ⟨{ start [] [] [] [] [.lcdEvent] with
        lcd := { Lcd.reset with
          state := .ready, addr := 0x27, pc := .text 0 .lo 3, text := [0x41]
          events := [.delay 80, wr 0x1D, .delay 1, wr 0x08] } },
      _, by decide, by decide, rfl, by decide⟩⟩

theorem witness_WholeLcdOperationEqualsItsSteps :
    (∃ s : State, s.lcd.pc = .idle ∧ s.lcd.busHung = false ∧ decode s.cfg .lcd s.lcd.port = .instr (.lcdTryNew 0x7F) []) ∧
    (∃ s : State, s.lcd.pc = .idle ∧ s.lcd.busHung = false ∧
      decode s.cfg .lcd s.lcd.port = .instr (.lcdWriteText [0x41]) [0x11]) :=
  ⟨⟨start [] [] [0x10, 0x7F] [] [], by decide⟩, ⟨start [] [] [0x11, 0x01, 0x41, 0x11] [] [], by decide⟩⟩

theorem witness_SplittingATextIsTransparent :
    ∃ s : State, s.lcd.pc = .idle ∧ s.lcd.state = .ready ∧ s.lcd.busHung = false ∧
      s.lcd.allOk (4 * ([(0x41 : Byte)].length + [(0x42 : Byte)].length)) :=
  ⟨lcdState .ready .idle [] (List.replicate 8 .ok) .lcd, by decide, by decide, by decide, by unfold Lcd.allOk; decide⟩

theorem witness_LifecycleHasTwoTransitions :
    (∃ s t : State, s.Inv ∧ s.turn ≠ .rst ∧ step s = .next t ∧ s.lcd.state = .uninit ∧ t.lcd.state = .ready) ∧
    (∃ s t : State, s.Inv ∧ s.turn ≠ .rst ∧ step s = .next t ∧ s.lcd.state = .uninit ∧ t.lcd.state = .failed) :=
  ⟨⟨start [] [] [0x10, 0x27] (List.replicate 8 .ok) [.lcd], _, by decide, by decide, rfl, by decide, by decide⟩,
    ⟨start [] [] [0x10, 0x27] [.busError] [.lcd], _, by decide, by decide, rfl, by decide, by decide⟩⟩

theorem witness_LaterCommandsAfterAFailure :
    (∃ s t : State, s.Inv ∧ s.lcd.state = .failed ∧ s.turn ≠ .rst ∧ step s = .next t ∧ t.lcd.results = [.refused]) ∧
    (∃ s : State, s.lcd.state = .failed ∧ s.lcd.pc = .idle ∧ s.turn = .lcd ∧ decode s.cfg .lcd s.lcd.port ≠ .incomplete) ∧
    (∃ s : State, s.lcd.pc = .idle ∧ s.lcd.state = .ready ∧ s.lcd.busHung = false ∧ 2 < 4 * [0x41, (0x42 : Byte)].length ∧
      s.lcd.allOk 2 ∧ s.lcd.answer 2 = .busError ∧ ∀ i, i < 4 * [(0x43 : Byte)].length → s.lcd.answer (2 + 1 + i) = .ok) :=
  ⟨⟨{ start [] [] [] [] [.lcd] with
        lcd := { Lcd.reset with state := .failed, events := [.delay 80], port := [0x11, 0x01, 0x41] } },
      _, by decide, by decide, by decide, rfl, by decide⟩,
    ⟨{ start [] [] [] [] [.lcd] with lcd := { Lcd.reset with state := .failed, port := [0x11, 0x01, 0x41] } }, by decide⟩,
    ⟨lcdState .ready .idle [] [.ok, .ok, .busError, .ok, .ok, .ok, .ok] .lcd, by decide, by decide, by decide, by decide,
      by unfold Lcd.allOk; decide, by decide, by decide⟩⟩

theorem witness_AddressIsWrittenOnceAndUsedAlways :
    (∃ s t : State, s.turn ≠ .rst ∧ step s = .next t ∧ t.lcd.addr ≠ s.lcd.addr) ∧
    (busy.Inv ∧ LcdEvent.busWrite 0x27 0x08 .ok ∈ busy.lcd.events) ∧
    (State.reset.Inv ∧ State.reset.lcd.state = .uninit ∧ State.reset.lcd.pc = .idle) :=
  ⟨⟨start [] [] [0x10, 0x7F] [.busError] [.lcdEvent], _, by decide, rfl, by decide⟩, by decide, by decide⟩

theorem witness_ControlFlagsAreConstants :
    (∃ s t : State, step s = .next t) ∧
    (busy.Inv ∧ busy.lcd.events = [.delay 80, wr 0x4D, .delay 1] ++ .busWrite 0x27 0x08 .ok :: [.delay 5, wr 0x1D, .delay 1] ∧
      [LcdEvent.delay 80, wr 0x4D, .delay 1].getLast? = some (.delay 1)) ∧
    (busy.lcd.events = [.delay 80] ++ .busWrite 0x27 0x4D .ok :: [.delay 1, wr 0x08, .delay 5, wr 0x1D, .delay 1] ∧
      [LcdEvent.delay 80].getLast? ≠ some (.delay 1)) :=
  ⟨⟨busy, _, rfl⟩, by decide, by decide⟩

theorem witness_EveryWriteIsFollowedByItsDelay :
    busy.cfg.wf = true ∧ busy.Inv ∧
      busy.lcd.events = [.delay 80, wr 0x4D, .delay 1] ++ .busWrite 0x27 0x08 .ok :: .delay 5 :: [wr 0x1D, .delay 1] ∧
      busy.lcd.events = .delay 80 :: [wr 0x4D, .delay 1, wr 0x08, .delay 5, wr 0x1D, .delay 1] := by decide

theorem witness_AgentsShareNoState :
    (∃ s s' t t' : State, s.turn = s'.turn ∧ step s = .next t ∧ step s' = .next t' ∧ s.turn = .kpEvent ∧ s.kp = s'.kp ∧
      s.lcd ≠ s'.lcd) ∧
    (∃ s s' t t' : State, s.turn = s'.turn ∧ step s = .next t ∧ step s' = .next t' ∧ s.turn = .lcd ∧ s.lcd = s'.lcd ∧
      s.cfg = s'.cfg ∧ s.kp ≠ s'.kp) :=
  ⟨⟨start [0x01] [] [] [] [.kpEvent], start [0x01] [] [0x10] [] [.kpEvent], _, _, by decide, rfl, rfl, by decide⟩,
    ⟨start [] [] [0x10, 0x27] [.ok] [.lcd], start [0x01] [] [0x10, 0x27] [.ok] [.lcd], _, _, by decide, rfl, rfl, by decide⟩⟩

theorem witness_TurnsOfTheAgentsCommute :
    (Turn.kp = .kp ∨ Turn.kp = .kpEvent) ∧ (Turn.lcdEvent = .lcd ∨ Turn.lcdEvent = .lcdEvent) := by decide

theorem witness_ResetTakesTheResetValuesAtAnyTime : ∃ s : State, s.turn = .rst :=
  ⟨{ busy with turns := [.rst] }, by decide⟩

theorem witness_HistoriesOnlyGrow : ∃ s t : State, s.turn ≠ .rst ∧ step s = .next t := ⟨busy, _, by decide, rfl⟩

theorem witness_EveryStepKeepsTheInvariant : ∃ t : State, busy.Inv ∧ step busy = .next t := ⟨_, by decide, rfl⟩

theorem witness_StatusTellsHowTheHandshakeEnded :
    (busy.status.getLsbD 0 = true ∧ busy.status.getLsbD 1 = true ∧ busy.status.getLsbD 2 = true ∧
      (lcdState .failed .idle [] [] .lcd).status.getLsbD 3 = true) ∧
    (∃ s t : State, s.kp.pc = .idle ∧ s.lcd.pc = .idle ∧ s.lcd.state = .uninit ∧ s.lcd.busHung = false ∧
      exec (.lcdTryNew 0x27) s = .next t ∧ s.lcd.allOk (2 * s.cfg.nFs8 + 2)) ∧
    (∃ s t : State, s.kp.pc = .idle ∧ s.lcd.pc = .idle ∧ s.lcd.state = .uninit ∧ s.lcd.busHung = false ∧
      exec (.lcdTryNew 0x27) s = .next t ∧ s.lcd.allOk 7 ∧ s.lcd.answer 7 = .busError) ∧
    (∃ s t : State, s.kp.pc = .idle ∧ s.lcd.pc = .idle ∧ s.lcd.state = .uninit ∧ s.lcd.busHung = false ∧
      exec (.lcdTryNew 0x27) s = .next t ∧ s.lcd.allOk 0 ∧ s.lcd.answer 0 = .never ∧
      Turn.rst ∉ [Turn.kp, .lcd] ∧ ∃ u, run [Turn.kp, .lcd].length { t with turns := [.kp, .lcd] } = .next u) :=
  ⟨by decide,
    ⟨lcdState .uninit .idle [] (List.replicate 8 .ok) .lcd, _, by decide, by decide, by decide, by decide, rfl,
      by unfold Lcd.allOk; decide⟩,
    ⟨lcdState .uninit .idle [] (List.replicate 7 .ok ++ [.busError]) .lcd, _, by decide, by decide, by decide, by decide, rfl,
      by unfold Lcd.allOk; decide, by decide⟩,
    ⟨lcdState .uninit .idle [] [.never] .lcd, _, by decide, by decide, by decide, by decide, rfl,
      by unfold Lcd.allOk; decide, by decide, by decide, _, rfl⟩⟩

theorem witness_FarSideGetsTheNibblesInOrder :
    (∃ s : State, s.cfg.wf = true ∧ s.lcd.pc = .idle ∧ s.lcd.state = .uninit ∧ s.lcd.busHung = false ∧
      s.lcd.allOk (2 * s.cfg.nFs8 + 2) ∧ s.lcd.farView s.cfg = { pins := none, latched := some [] }) ∧
    (∃ s : State, s.cfg.wf = true ∧ s.lcd.pc = .idle ∧ s.lcd.state = .ready ∧ s.lcd.busHung = false ∧
      s.lcd.allOk (4 * [(0x41 : Byte)].length) ∧
      s.lcd.farView s.cfg = { pins := some s.cfg.backlightOn, latched := some [(0x2, 0xC)] }) :=
  ⟨⟨lcdState .uninit .idle [] (List.replicate 8 .ok) .lcd, by decide, by decide, by decide, by decide,
      by unfold Lcd.allOk; decide, by decide⟩,
    ⟨{ start [] [] [] [] [] with
        lcd := { Lcd.reset with
          state := .ready, addr := 0x27, busAnswers := List.replicate 4 .ok
          events := [wr 0x2C, .delay 1, wr 0x08, .delay 5] } },
      by decide, by decide, by decide, by decide, by unfold Lcd.allOk; decide, by decide⟩⟩

theorem witness_FarSideIsUnknownAfterAFailure :
    (∃ s t : State, step s = .next t ∧ (s.lcd.farView s.cfg).latched = none) ∧
    (∃ s t : State, s.turn = .rst ∧ step s = .next t ∧ s.lcd.busHung = true ∧ s.lcd.pc = .init 5) ∧
    (∃ s t : State, s.turn = .rst ∧ step s = .next t ∧ s.lcd.busHung = false ∧ s.lcd.pc = .init 4) ∧
    (∃ s t : State, s.turn = .rst ∧ step s = .next t ∧ s.lcd.busHung = false ∧ s.lcd.pc = .text 0 .lo 1 ∧ (1 : Fin 4) ≠ 0) ∧
    (∃ s t : State, s.turn = .rst ∧ step s = .next t ∧ s.lcd.busHung = false ∧ s.lcd.pc = .init 5) ∧
    (∃ s t : State, s.turn = .rst ∧ step s = .next t ∧ s.lcd.busHung = false ∧ s.lcd.pc = .text 0 .lo 0) :=
  ⟨⟨{ start [] [] [] [] [.rst] with lcd := { Lcd.reset with farBefore := FarSide.unknown } }, _, rfl, by decide⟩,
    ⟨{ start [] [] [] [] [.rst] with lcd := { Lcd.reset with busHung := true, pc := .init 5 } }, _, by decide, rfl, by decide⟩,
    ⟨lcdState .uninit (.init 4) [] [] .rst, _, by decide, rfl, by decide⟩,
    ⟨lcdState .ready (.text 0 .lo 1) [0x41] [] .rst, _, by decide, rfl, by decide⟩,
    ⟨lcdState .uninit (.init 5) [] [] .rst, _, by decide, rfl, by decide⟩,
    ⟨lcdState .ready (.text 0 .lo 0) [0x41] [] .rst, _, by decide, rfl, by decide⟩⟩

end Sys2Proof.Tests
end

section
/-! One step, as a function of each agent: what a turn does to KP is a function of KP, what it does to LCD is a function
of LCD and the parameters. -/

namespace Sys2Proof.Machine

/-- What the decoder of the KP port can read is KP.PRESSED_KEY alone (30_encoding.md R59). -/
theorem decodeKp_eq_instr {bs rest : List Byte} {i : Instr} (h : decodeKp bs = .instr i rest) : i = .kpPressedKey := by
  cases bs with
  | nil => cases h
  | cons b bs =>
    simp only [decodeKp] at h
    split at h <;> simp_all

theorem decodeTryNew_eq_instr {bs rest : List Byte} {i : Instr} (h : decodeTryNew bs = .instr i rest) :
    ∃ a, i = .lcdTryNew a := by
  cases bs with
  | nil => cases h
  | cons a bs =>
    simp only [decodeTryNew] at h
    split at h
    · cases h
    · cases h; exact ⟨_, rfl⟩

theorem decodeWriteText_eq_instr {cfg : Config} {bs rest : List Byte} {i : Instr}
    (h : decodeWriteText cfg bs = .instr i rest) : ∃ text, i = .lcdWriteText text := by
  cases bs with
  | nil => cases h
  | cons n bs =>
    simp only [decodeWriteText] at h
    split at h
    · cases h
    · split at h
      · cases h; exact ⟨_, rfl⟩
      · cases h

/-- What the decoder of the LCD port can read are the two LCD commands (30_encoding.md R60). -/
theorem decodeLcd_eq_instr {cfg : Config} {bs rest : List Byte} {i : Instr} (h : decodeLcd cfg bs = .instr i rest) :
    (∃ a, i = .lcdTryNew a) ∨ ∃ text, i = .lcdWriteText text := by
  cases bs with
  | nil => cases h
  | cons b bs =>
    simp only [decodeLcd] at h
    split at h
    · exact .inl (decodeTryNew_eq_instr h)
    · split at h
      · exact .inr (decodeWriteText_eq_instr h)
      · cases h

/-- KP in a turn of a whole operation; `serveKp_eq` ties it to the machine. -/
def Kp.served (k : Kp) : Kp :=
  if k.pc = .idle then
    match decodeKp k.port with
    | .instr _ rest => pressedKey { k with port := rest }
    | .reserved _ rest => kpRefuse { k with port := rest }
    | .incomplete => k
  else kpAdvance k

/-- LCD in a turn of a whole operation; `serveLcd_eq` ties it to the machine. -/
def Lcd.served (cfg : Config) (l : Lcd) : Lcd :=
  if l.pc = .idle then
    match decodeLcd cfg l.port with
    | .instr (.lcdTryNew a) rest => tryNew cfg a { l with port := rest }
    | .instr (.lcdWriteText text) rest => writeText cfg text { l with port := rest }
    | .instr _ _ => l
    | .reserved _ rest => lcdRefuse { l with port := rest }
    | .incomplete => l
  else lcdAdvance cfg l

theorem serveKp_eq (s : State) : serveKp s = .next { s with kp := s.kp.served } := by
  unfold serveKp Kp.served
  by_cases hpc : s.kp.pc = .idle
  · cases hd : decodeKp s.kp.port with
    | instr i rest =>
      obtain ⟨rfl, -⟩ := decodeKp_eq_instr hd
      simp [hpc, decode, hd, exec, execKpPressedKey, State.withKpPort]
    | reserved why rest => simp [hpc, decode, hd]
    | incomplete => simp [hpc, decode, hd]
  · simp [hpc]

theorem serveLcd_eq (s : State) : serveLcd s = .next { s with lcd := s.lcd.served s.cfg } := by
  unfold serveLcd Lcd.served
  by_cases hpc : s.lcd.pc = .idle
  · cases hd : decodeLcd s.cfg s.lcd.port with
    | instr i rest =>
      obtain ⟨a, rfl⟩ | ⟨text, rfl⟩ := decodeLcd_eq_instr hd
      · simp [hpc, decode, hd, exec, execLcdTryNew, State.withLcdPort]
      · simp [hpc, decode, hd, exec, execLcdWriteText, State.withLcdPort]
    | reserved why rest => simp [hpc, decode, hd]
    | incomplete => simp [hpc, decode, hd]
  · simp [hpc]

/-- KP after a turn; `step_eq` ties it to the machine. -/
def Kp.after (t : Turn) (k : Kp) : Kp :=
  match t with
  | .kp => k.served
  | .kpEvent => kpEvent k
  | .lcd | .lcdEvent => k
  | .rst => k.rst

/-- LCD after a turn; `step_eq` ties it to the machine. -/
def Lcd.after (cfg : Config) (t : Turn) (l : Lcd) : Lcd :=
  match t with
  | .kp | .kpEvent => l
  | .lcd => l.served cfg
  | .lcdEvent => lcdEvent cfg l
  | .rst => l.rst cfg

/-- A step takes the turn from the schedule and changes each agent by itself (10_state.md R25, 20_memory.md R44). -/
theorem step_eq (s : State) :
    step s = .next { s.pastTurn with kp := s.kp.after s.turn, lcd := s.lcd.after s.cfg s.turn } := by
  unfold step takeTurn Kp.after Lcd.after
  cases s.turn <;> simp [serveKp_eq, serveLcd_eq, State.rst]

section Fields
variable {s t : State}

theorem step_kp (h : step s = .next t) : t.kp = s.kp.after s.turn := by
  rw [step_eq] at h; cases h; rfl

theorem step_lcd (h : step s = .next t) : t.lcd = s.lcd.after s.cfg s.turn := by
  rw [step_eq] at h; cases h; rfl

theorem step_cfg (h : step s = .next t) : t.cfg = s.cfg := by
  rw [step_eq] at h; cases h; exact s.pastTurn_cfg

end Fields

end Sys2Proof.Machine
end

section
/-! A whole KP operation is its actions one after another (40_keypad.md R70, R73, R80): an invariant of one action of
the sequencer holds over KP.PRESSED_KEY. -/

namespace Sys2Proof.Machine

theorem kpAdvance_idle {k : Kp} (h : k.pc = .idle) : kpAdvance k = k := by
  simp [kpAdvance, h]

theorem kpAdvance_edge {k : Kp} (h : k.pc = .edge) : kpAdvance k = kpReturn (edgeDetect k) := by
  simp [kpAdvance, h]

theorem kpAdvance_inside {k : Kp} (hi : k.pc ≠ .idle) (he : k.pc ≠ .edge) :
    kpAdvance k = { kpAct k.pc k with pc := k.pc.next } := by
  unfold kpAdvance
  split
  · next h => exact absurd h hi
  · next h => exact absurd h he
  · rfl

/-- Positions taken one after another in the fixed order are that many advances of the sequencer. -/
theorem foldl_kpAt_eq_iterate (n : Nat) (p : KpPc) (k : Kp)
    (h : ∀ i < n, KpPc.next^[i] p ≠ .idle ∧ KpPc.next^[i] p ≠ .edge) :
    { (List.iterate KpPc.next p n).foldl kpAt k with pc := KpPc.next^[n] p } = kpAdvance^[n] { k with pc := p } := by
  induction n generalizing p k with
  | zero => rfl
  | succ n ih =>
    obtain ⟨hi, he⟩ := h 0 n.succ_pos
    have hadv : kpAdvance { k with pc := p } = { kpAt k p with pc := p.next } := kpAdvance_inside hi he
    rw [Function.iterate_succ_apply kpAdvance, hadv]
    exact ih p.next (kpAt k p) fun i hi => h (i + 1) (Nat.succ_lt_succ hi)

/-- KP.PRESSED_KEY run whole is 26 advances from its first position: 24 pin events, decode, edge. -/
theorem pressedKey_eq_iterate (k : Kp) : pressedKey k = kpAdvance^[26] (kpBegin k) := by
  have hpos : List.iterate KpPc.next (.rowHi 0) 25 = scanPositions ++ [.decode] := by decide
  have hrun := foldl_kpAt_eq_iterate 25 (.rowHi 0) k (by decide)
  rw [hpos, List.foldl_append] at hrun
  rw [Function.iterate_succ_apply' kpAdvance 25, kpBegin, ← hrun]
  exact (kpAdvance_edge rfl).symm

/-- An idle KP in turn accepts what stands at its port and, whole or event by event, advances some number of times. -/
theorem Kp.served_of_idle {k : Kp} (h : k.pc = .idle) : ∃ n, k.served = kpAdvance^[n] (kpAccept k) := by
  unfold Kp.served kpAccept
  rw [if_pos h]
  cases decodeKp k.port with
  | instr i rest => exact ⟨26, pressedKey_eq_iterate _⟩
  | reserved why rest => exact ⟨0, rfl⟩
  | incomplete => exact ⟨0, rfl⟩

/-- Every KP turn but reset is advances of the sequencer, after the command at the port if KP was idle. -/
theorem Kp.after_eq_iterate {t : Turn} (k : Kp) (h : t ≠ .rst) :
    ∃ n, k.after t = kpAdvance^[n] k ∨ k.pc = .idle ∧ k.after t = kpAdvance^[n] (kpAccept k) := by
  cases t with
  | kp =>
    by_cases hpc : k.pc = .idle
    · obtain ⟨n, hn⟩ := Kp.served_of_idle hpc
      exact ⟨n, .inr ⟨hpc, hn⟩⟩
    · exact ⟨1, .inl (if_neg hpc)⟩
  | kpEvent =>
    by_cases hpc : k.pc = .idle
    · exact ⟨0, .inr ⟨hpc, if_pos hpc⟩⟩
    · exact ⟨1, .inl (if_neg hpc)⟩
  | lcd => exact ⟨0, .inl rfl⟩
  | lcdEvent => exact ⟨0, .inl rfl⟩
  | rst => exact absurd rfl h

/-- A property that accepting a command and every advance keep is kept by every KP turn but reset. -/
theorem Kp.after_induct {P : Kp → Prop} {t : Turn} {k : Kp} (h : t ≠ .rst) (hk : P k)
    (haccept : k.pc = .idle → P (kpAccept k)) (hadvance : ∀ k, P k → P (kpAdvance k)) : P (k.after t) := by
  obtain ⟨n, hn | ⟨hpc, hn⟩⟩ := k.after_eq_iterate h
  · rw [hn]; exact Function.Iterate.rec P hk hadvance n
  · rw [hn]; exact Function.Iterate.rec P (haccept hpc) hadvance n

end Sys2Proof.Machine
end

section
/-! One step of the LCD sequencer: its outcomes, said once (10_state.md R22, 20_memory.md R36, R47). -/

namespace Sys2Proof.Machine

/-- LCD after a step that completed. -/
def Lcd.did (a : LcdAct) (l : Lcd) : Lcd :=
  match a with
  | .write b => recordWrite b .ok (l.answered 1)
  | .wait n => delayMs n l

/-- The event of a step that completes at address `addr`. -/
def LcdAct.event (addr : Addr) : LcdAct → LcdEvent
  | .write b => .busWrite addr b .ok
  | .wait n => .delay n

@[simp] theorem Lcd.did_state (a : LcdAct) (l : Lcd) : (l.did a).state = l.state := by cases a <;> rfl
@[simp] theorem Lcd.did_addr (a : LcdAct) (l : Lcd) : (l.did a).addr = l.addr := by cases a <;> rfl
@[simp] theorem Lcd.did_pc (a : LcdAct) (l : Lcd) : (l.did a).pc = l.pc := by cases a <;> rfl
@[simp] theorem Lcd.did_text (a : LcdAct) (l : Lcd) : (l.did a).text = l.text := by cases a <;> rfl
@[simp] theorem Lcd.did_busHung (a : LcdAct) (l : Lcd) : (l.did a).busHung = l.busHung := by cases a <;> rfl
@[simp] theorem Lcd.did_results (a : LcdAct) (l : Lcd) : (l.did a).results = l.results := by cases a <;> rfl
@[simp] theorem Lcd.did_events (a : LcdAct) (l : Lcd) : (l.did a).events = l.events ++ [a.event l.addr] := by
  cases a <;> rfl

/-- A step that is no write, or a write that answers Ok, completes. -/
theorem lcdAct_did {a : LcdAct} {l : Lcd} (h : l.busHung = false) (hok : ∀ b, a = .write b → l.answer 0 = .ok) :
    lcdAct a l = (.goOn, l.did a) := by
  cases a with
  | write b => exact i2cWrite_ok b l h (hok b rfl)
  | wait n => rfl

/-- Everything one step can do: complete, or be a write that fails or never completes. -/
theorem lcdAct_cases (a : LcdAct) {l : Lcd} (h : l.busHung = false) :
    lcdAct a l = (.goOn, l.did a) ∨
    (∃ b, a = .write b ∧ lcdAct a l = (.ended, raiseBusError (recordWrite b .busError (l.answered 1)))) ∨
    ∃ b, a = .write b ∧ lcdAct a l = (.waiting, { l.answered 1 with busHung := true }) := by
  cases a with
  | wait n => exact .inl rfl
  | write b =>
    cases ha : l.answer 0 with
    | ok => exact .inl (i2cWrite_ok b l h ha)
    | busError => exact .inr (.inl ⟨b, rfl, i2cWrite_busError b l h ha⟩)
    | never => exact .inr (.inr ⟨b, rfl, i2cWrite_never b l h ha⟩)

theorem lcdAdvance_hung {cfg : Config} {l : Lcd} (h : l.busHung = true) : lcdAdvance cfg l = l := if_pos h

theorem lcdAdvance_idle {cfg : Config} {l : Lcd} (h : l.pc = .idle) : lcdAdvance cfg l = l := by
  simp [lcdAdvance, h]

/-- There is no step at the idle position. -/
theorem ne_idle_of_stepAt {cfg : Config} {text : List Byte} {p : LcdPc} {a : LcdAct} (h : stepAt cfg text p = some a) :
    p ≠ .idle := by
  rintro rfl
  cases h

theorem lcdAdvance_step {cfg : Config} {l : Lcd} {a : LcdAct} (h : l.busHung = false)
    (hs : stepAt cfg l.text l.pc = some a) : lcdAdvance cfg l = whenDone (lcdMoveOn cfg) (lcdAct a l) := by
  have hpc := ne_idle_of_stepAt hs
  simp [lcdAdvance, h, hpc, hs]

/-- A position past the end of the text ends the operation. -/
theorem lcdAdvance_noStep {cfg : Config} {l : Lcd} (h : l.busHung = false) (hpc : l.pc ≠ .idle)
    (hs : stepAt cfg l.text l.pc = none) : lcdAdvance cfg l = lcdReturn .ok l := by
  simp [lcdAdvance, h, hpc, hs]

/-- The step completes and the sequencer moves on, unless it is a write that does not answer Ok. -/
theorem lcdAdvance_did {cfg : Config} {l : Lcd} {a : LcdAct} (h : l.busHung = false)
    (hs : stepAt cfg l.text l.pc = some a) (hok : ∀ b, a = .write b → l.answer 0 = .ok) :
    lcdAdvance cfg l = lcdMoveOn cfg (l.did a) := by
  rw [lcdAdvance_step h hs, lcdAct_did h hok]
  rfl

/-- Everything one advance can do where a step is to be performed: it completes and the sequencer moves on, or it is a
write that raises the exception or that never completes. -/
theorem lcdAdvance_cases {cfg : Config} {l : Lcd} {a : LcdAct} (h : l.busHung = false)
    (hs : stepAt cfg l.text l.pc = some a) :
    lcdAdvance cfg l = lcdMoveOn cfg (l.did a) ∨
    (∃ b, a = .write b ∧ lcdAdvance cfg l = raiseBusError (recordWrite b .busError (l.answered 1))) ∨
    ∃ b, a = .write b ∧ lcdAdvance cfg l = { l.answered 1 with busHung := true } := by
  rw [lcdAdvance_step h hs]
  obtain h | ⟨b, hb, h⟩ | ⟨b, hb, h⟩ := lcdAct_cases a h
  · exact .inl (by rw [h]; rfl)
  · exact .inr (.inl ⟨b, hb, by rw [h]; rfl⟩)
  · exact .inr (.inr ⟨b, hb, by rw [h]; rfl⟩)

/-! The step and the successor at each position. -/

theorem stepAt_init_zero (cfg : Config) (text : List Byte) : stepAt cfg text (.init 0) = some (.wait tPowerOn) := rfl

theorem stepAt_init_succ (cfg : Config) (text : List Byte) (i : Nat) :
    stepAt cfg text (.init (i + 1)) =
      some (pulseAct cfg (handshakeByte cfg (i / 4)) (cmdFlags cfg) (Fin.ofNat 4 i)) := rfl

theorem stepAt_text {cfg : Config} {text : List Byte} {j : Nat} (h : Half) (q : Fin 4) {c : Byte}
    (hc : text[j]? = some c) :
    stepAt cfg text (.text j h q) = some (pulseAct cfg (halfNibble c h) (charFlags cfg) q) := by
  simp [stepAt, hc]

theorem lcdMoveOn_init_next {cfg : Config} {l : Lcd} {i : Nat} (hpc : l.pc = .init i) (h : i + 1 < initLength cfg) :
    lcdMoveOn cfg l = { l with pc := .init (i + 1) } := by
  simp [lcdMoveOn, hpc, h]

theorem lcdMoveOn_init_last {cfg : Config} {l : Lcd} {i : Nat} (hpc : l.pc = .init i) (h : ¬ i + 1 < initLength cfg) :
    lcdMoveOn cfg l = initReturn l := by
  simp [lcdMoveOn, hpc, h]

theorem lcdMoveOn_text_inside {cfg : Config} {l : Lcd} {j : Nat} {h : Half} {q : Fin 4} (hpc : l.pc = .text j h q)
    (hq : q ≠ 3) : lcdMoveOn cfg l = { l with pc := .text j h (q + 1) } := by
  have hv : q.val ≠ 3 := fun e => hq (Fin.ext e)
  simp [lcdMoveOn, hpc, hv]

theorem lcdMoveOn_text_hi {cfg : Config} {l : Lcd} {j : Nat} (hpc : l.pc = .text j .hi 3) :
    lcdMoveOn cfg l = { l with pc := .text j .lo 0 } := by
  simp [lcdMoveOn, hpc]

theorem lcdMoveOn_text_lo {cfg : Config} {l : Lcd} {j : Nat} (hpc : l.pc = .text j .lo 3) (h : j + 1 < l.text.length) :
    lcdMoveOn cfg l = { l with pc := .text (j + 1) .hi 0 } := by
  simp [lcdMoveOn, hpc, h]

theorem lcdMoveOn_text_last {cfg : Config} {l : Lcd} {j : Nat} (hpc : l.pc = .text j .lo 3)
    (h : ¬ j + 1 < l.text.length) : lcdMoveOn cfg l = lcdReturn .ok l := by
  simp [lcdMoveOn, hpc, h]

end Sys2Proof.Machine
end

section
/-! A whole LCD operation is its steps one after another (10_state.md R22, 20_memory.md R42): an invariant of one step
of the sequencer holds over LCD.TRY_NEW and LCD.WRITE_TEXT. -/

namespace Sys2Proof.Machine

/-- Where the sequencer goes to begin a list of steps: to the first position, or the operation ends. -/
def arrive (fin : Lcd → Lcd) : List (LcdPc × LcdAct) → Lcd → Lcd
  | [], l => fin l
  | (p, _) :: _, l => { l with pc := p }

/-- A list of positions and steps is what the sequencer does with the operand `text`, up to the end `fin` of the
operation: at each position its step, and from each position to the next. -/
def Sequenced (cfg : Config) (text : List Byte) (fin : Lcd → Lcd) : List (LcdPc × LcdAct) → Prop
  | [] => True
  | (p, a) :: rest =>
    stepAt cfg text p = some a ∧ (∀ l : Lcd, l.pc = p → l.text = text → lcdMoveOn cfg l = arrive fin rest l) ∧
      Sequenced cfg text fin rest

section Whole
variable {cfg : Config} {text : List Byte} {fin : Lcd → Lcd}

/-- Steps run whole are as many advances from the first position; after an exception or a hang the rest change
nothing. -/
theorem whenDone_runActs_eq_iterate {xs : List (LcdPc × LcdAct)} (hx : Sequenced cfg text fin xs) {l : Lcd}
    (hh : l.busHung = false) (ht : l.text = text) :
    whenDone fin (runActs xs l) = (lcdAdvance cfg)^[xs.length] (arrive fin xs l) := by
  induction xs generalizing l with
  | nil => rfl
  | cons x rest ih =>
    obtain ⟨p, a⟩ := x
    obtain ⟨hstep, hmove, hrest⟩ := hx
    have hadv : lcdAdvance cfg { l with pc := p } = whenDone (lcdMoveOn cfg) (lcdAct a { l with pc := p }) :=
      lcdAdvance_step hh (ht ▸ hstep)
    rw [runActs_cons _ _ _ _ hh, List.length_cons, Function.iterate_succ_apply, arrive, hadv]
    obtain h | ⟨b, -, h⟩ | ⟨b, -, h⟩ := lcdAct_cases a (l := { l with pc := p }) hh
    · rw [h]
      have hnext := hmove (Lcd.did a { l with pc := p }) (by simp) (by simpa using ht)
      exact (ih hrest (by simpa using hh) (by simpa using ht)).trans (by rw [← hnext]; rfl)
    · rw [h]
      exact (Function.iterate_fixed (lcdAdvance_idle rfl) _).symm
    · rw [h]
      exact (Function.iterate_fixed (lcdAdvance_hung rfl) _).symm

/-- The four steps of a pulse, before the steps `rest`. -/
theorem sequenced_pulseActs {site : Fin 4 → LcdPc} {payload flags : Byte} {rest : List (LcdPc × LcdAct)}
    (hstep : ∀ q, stepAt cfg text (site q) = some (pulseAct cfg payload flags q))
    (hmove : ∀ (q : Fin 4) (l : Lcd), q ≠ 3 → l.pc = site q → lcdMoveOn cfg l = { l with pc := site (q + 1) })
    (hlast : ∀ l : Lcd, l.pc = site 3 → l.text = text → lcdMoveOn cfg l = arrive fin rest l)
    (hrest : Sequenced cfg text fin rest) :
    Sequenced cfg text fin (pulseActs cfg site payload flags ++ rest) :=
  ⟨hstep 0, fun l hl _ => hmove 0 l (by decide) hl, hstep 1, fun l hl _ => hmove 1 l (by decide) hl,
    hstep 2, fun l hl _ => hmove 2 l (by decide) hl, hstep 3, hlast, hrest⟩

theorem handshakeCommands_length (cfg : Config) : (handshakeCommands cfg).length = cfg.nFs8 + 1 := by
  simp [handshakeCommands, nFs4]

/-- The sequencer's byte of a pulse is the one in the list of commands (42_lcd_driver.md R101). -/
theorem handshakeCommands_getElem {k : Nat} (h : k < (handshakeCommands cfg).length) :
    (handshakeCommands cfg)[k] = handshakeByte cfg k := by
  by_cases hk : k < cfg.nFs8 <;> simp [handshakeCommands, handshakeByte, List.getElem_append, hk]

theorem val_succ_of_ne_last {q : Fin 4} (h : q ≠ 3) : (q + 1).val = q.val + 1 := by
  revert q
  decide

/-- The handshake from pulse `k` on. -/
theorem sequenced_initPulses (k : Nat) (bs : List Byte) (h : bs = (handshakeCommands cfg).drop k) :
    Sequenced cfg text initReturn (initPulses cfg k bs) := by
  induction bs generalizing k with
  | nil => trivial
  | cons b bs ih =>
    have hk : k < (handshakeCommands cfg).length := by
      by_contra hk
      rw [List.drop_eq_nil_of_le (by omega)] at h
      cases h
    rw [List.drop_eq_getElem_cons hk, handshakeCommands_getElem hk, List.cons.injEq] at h
    obtain ⟨rfl, htail⟩ := h
    have hlen := handshakeCommands_length cfg
    have hinit := initLength_eq cfg
    refine sequenced_pulseActs ?_ ?_ ?_ (ih (k + 1) htail)
    · intro q
      have hdiv : (4 * k + q.val) / 4 = k := by omega
      have hmod : Fin.ofNat 4 (4 * k + q.val) = q := by ext; simp
      rw [initSite, show 1 + 4 * k + q.val = 4 * k + q.val + 1 by omega, stepAt_init_succ, hdiv, hmod]
    · intro q l hq hl
      have hv := val_succ_of_ne_last hq
      rw [lcdMoveOn_init_next hl (by omega), initSite, hv]
      rfl
    · intro l hl _
      have hrest := congrArg List.length htail
      rw [List.length_drop] at hrest
      cases bs with
      | nil => exact lcdMoveOn_init_last hl (by simp at hrest ⊢; omega)
      | cons b' bs =>
        rw [lcdMoveOn_init_next hl (by simp at hrest ⊢; omega)]
        rfl

theorem sequenced_initActs : Sequenced cfg text initReturn (initActs cfg) := by
  have hinit := initLength_eq cfg
  refine ⟨stepAt_init_zero cfg text, fun l hl _ => ?_, sequenced_initPulses 0 _ rfl⟩
  rw [lcdMoveOn_init_next hl (by omega)]
  cases hc : handshakeCommands cfg with
  | nil => simp [handshakeCommands, nFs4] at hc
  | cons b bs => rfl

/-- The text from character `j` on. -/
theorem sequenced_textActs (j : Nat) (cs : List Byte) (h : cs = text.drop j) :
    Sequenced cfg text (lcdReturn .ok) (textActs cfg j cs) := by
  induction cs generalizing j with
  | nil => trivial
  | cons c cs ih =>
    have hj : j < text.length := by
      by_contra hj
      rw [List.drop_eq_nil_of_le (by omega)] at h
      cases h
    rw [List.drop_eq_getElem_cons hj, List.cons.injEq] at h
    obtain ⟨rfl, htail⟩ := h
    have hc : text[j]? = some text[j] := List.getElem?_eq_getElem hj
    have hinside : ∀ (h : Half) (q : Fin 4) (l : Lcd), q ≠ 3 → l.pc = .text j h q →
        lcdMoveOn cfg l = { l with pc := .text j h (q + 1) } := fun _ _ _ hq hl => lcdMoveOn_text_inside hl hq
    rw [textActs, charActs, List.append_assoc]
    refine sequenced_pulseActs (fun q => stepAt_text .hi q hc) (hinside .hi) ?_
      (sequenced_pulseActs (fun q => stepAt_text .lo q hc) (hinside .lo) ?_ (ih (j + 1) htail))
    · intro l hl _
      exact lcdMoveOn_text_hi hl
    · intro l hl ht
      have hrest := congrArg List.length htail
      rw [List.length_drop] at hrest
      cases cs with
      | nil => exact lcdMoveOn_text_last hl (by simp at hrest; rw [ht]; omega)
      | cons c' cs => exact lcdMoveOn_text_lo hl (by simp at hrest; rw [ht]; omega)

end Whole

/-- LCD.TRY_NEW run whole is advances from its acceptance. -/
theorem tryNew_eq_iterate (cfg : Config) (a : Addr) {l : Lcd} (h : l.busHung = false) :
    ∃ n, tryNew cfg a l = (lcdAdvance cfg)^[n] (beginTryNew a l) := by
  unfold tryNew beginTryNew
  by_cases hs : l.state = .uninit
  · rw [if_pos hs, if_pos hs]
    exact ⟨_, whenDone_runActs_eq_iterate sequenced_initActs h rfl⟩
  · rw [if_neg hs, if_neg hs]
    exact ⟨0, rfl⟩

/-- LCD.WRITE_TEXT run whole is advances from its acceptance. -/
theorem writeText_eq_iterate (cfg : Config) (text : List Byte) {l : Lcd} (h : l.busHung = false) :
    ∃ n, writeText cfg text l = (lcdAdvance cfg)^[n] (beginWriteText text l) := by
  unfold writeText beginWriteText
  by_cases hs : l.state = .ready
  · rw [if_pos hs, if_pos hs]
    refine ⟨(textActs cfg 0 text).length, ?_⟩
    refine (whenDone_runActs_eq_iterate (sequenced_textActs 0 text rfl) (l := { l with text := text }) h rfl).trans ?_
    cases text with
    | nil => rfl
    | cons c cs => rfl
  · rw [if_neg hs, if_neg hs]
    exact ⟨0, rfl⟩

/-- An idle LCD in turn accepts what stands at its port and, whole or event by event, advances some number of times. -/
theorem Lcd.served_of_idle (cfg : Config) {l : Lcd} (hpc : l.pc = .idle) (h : l.busHung = false) :
    ∃ n, l.served cfg = (lcdAdvance cfg)^[n] (lcdAccept cfg l) := by
  unfold Lcd.served lcdAccept
  rw [if_pos hpc]
  cases hd : decodeLcd cfg l.port with
  | instr i rest =>
    obtain ⟨a, rfl⟩ | ⟨text, rfl⟩ := decodeLcd_eq_instr hd
    · exact tryNew_eq_iterate cfg a h
    · exact writeText_eq_iterate cfg text h
  | reserved why rest => exact ⟨0, rfl⟩
  | incomplete => exact ⟨0, rfl⟩

/-- Every LCD turn but reset is advances of the sequencer, after the command at the port if LCD was idle; an idle LCD
with a hung transaction (assumption log 28) is left out. -/
theorem Lcd.after_eq_iterate (cfg : Config) {t : Turn} {l : Lcd} (h : t ≠ .rst)
    (hh : l.pc = .idle → l.busHung = false) :
    ∃ n, l.after cfg t = (lcdAdvance cfg)^[n] l ∨
      l.pc = .idle ∧ l.after cfg t = (lcdAdvance cfg)^[n] (lcdAccept cfg l) := by
  cases t with
  | kp => exact ⟨0, .inl rfl⟩
  | kpEvent => exact ⟨0, .inl rfl⟩
  | lcd =>
    by_cases hpc : l.pc = .idle
    · obtain ⟨n, hn⟩ := Lcd.served_of_idle cfg hpc (hh hpc)
      exact ⟨n, .inr ⟨hpc, hn⟩⟩
    · exact ⟨1, .inl (if_neg hpc)⟩
  | lcdEvent =>
    by_cases hpc : l.pc = .idle
    · exact ⟨0, .inr ⟨hpc, if_pos hpc⟩⟩
    · exact ⟨1, .inl (if_neg hpc)⟩
  | rst => exact absurd rfl h

/-- A property that accepting a command and every advance keep is kept by every LCD turn but reset. -/
theorem Lcd.after_induct {cfg : Config} {P : Lcd → Prop} {t : Turn} {l : Lcd} (h : t ≠ .rst)
    (hh : l.pc = .idle → l.busHung = false) (hl : P l) (haccept : l.pc = .idle → P (lcdAccept cfg l))
    (hadvance : ∀ l, P l → P (lcdAdvance cfg l)) : P (l.after cfg t) := by
  obtain ⟨n, hn | ⟨hpc, hn⟩⟩ := Lcd.after_eq_iterate cfg h hh
  · rw [hn]; exact Function.Iterate.rec P hl hadvance n
  · rw [hn]; exact Function.Iterate.rec P (haccept hpc) hadvance n

/-- Everything accepting the head of the port can do: nothing, a refusal, an empty text, or a first position. -/
theorem lcdAccept_cases (cfg : Config) (l : Lcd) :
    lcdAccept cfg l = l ∨
    (∃ rest, lcdAccept cfg l = lcdRefuse { l with port := rest }) ∨
    (∃ rest, l.state = .ready ∧ lcdAccept cfg l = lcdReturn .ok { l with port := rest }) ∨
    (∃ a rest, l.state = .uninit ∧ decodeLcd cfg l.port = .instr (.lcdTryNew a) rest ∧
      lcdAccept cfg l = { l with port := rest, addr := a, pc := .init 0 }) ∨
    ∃ text rest, l.state = .ready ∧ text ≠ [] ∧
      lcdAccept cfg l = { l with port := rest, text := text, pc := .text 0 .hi 0 } := by
  unfold lcdAccept
  cases hd : decodeLcd cfg l.port with
  | instr i rest =>
    obtain ⟨a, rfl⟩ | ⟨text, rfl⟩ := decodeLcd_eq_instr hd
    · by_cases hs : l.state = .uninit
      · exact .inr (.inr (.inr (.inl ⟨a, rest, hs, rfl, if_pos hs⟩)))
      · exact .inr (.inl ⟨rest, if_neg hs⟩)
    · by_cases hs : l.state = .ready
      · by_cases ht : text = []
        · exact .inr (.inr (.inl ⟨rest, hs, (if_pos hs).trans (if_pos ht)⟩))
        · exact .inr (.inr (.inr (.inr ⟨text, rest, hs, ht, (if_pos hs).trans (if_neg ht)⟩)))
      · exact .inr (.inl ⟨rest, if_neg hs⟩)
  | reserved why rest => exact .inr (.inl ⟨rest, rfl⟩)
  | incomplete => exact .inl rfl

end Sys2Proof.Machine
end

section
/-! The histories of a safe run: the row discipline of KP and the pulse discipline of LCD, event by event
(10_state.md R18, 41_nibble_writer.md R90). -/

namespace Sys2Proof.Machine

/-! KP: the rows. -/

/-- Exactly one of the four rows is high (10_state.md R18). -/
def ExactlyOneRow (rows : BitVec 4) : Prop := rows = 1 ∨ rows = 2 ∨ rows = 4 ∨ rows = 8

/-- At most one of the four rows is high (10_state.md R18). -/
def AtMostOneRow (rows : BitVec 4) : Prop := rows = 0 ∨ ExactlyOneRow rows

theorem exactlyOneRow_rowMask (r : Fin 4) : ExactlyOneRow (rowMask r) := by
  unfold ExactlyOneRow
  revert r
  decide

theorem rowStep_rowHi (r : Fin 4) : rowStep (some 0) (.rowSet r true) = some (rowMask r) := rfl

theorem rowStep_rowLo (r : Fin 4) : rowStep (some (rowMask r)) (.rowSet r false) = some 0 := if_pos rfl

theorem rowStep_sample {rows : BitVec 4} (c : Fin 4) (v : Bool) (h : ExactlyOneRow rows) :
    rowStep (some rows) (.colSample c v) = some rows := if_pos h

/-- The three events of a disciplined scan, each with the levels before and after it. -/
theorem rowStep_eq_some {before : Option (BitVec 4)} {rows : BitVec 4} {e : KpEvent}
    (h : rowStep before e = some rows) :
    (∃ r, e = .rowSet r true ∧ before = some 0 ∧ rows = rowMask r) ∨
    (∃ r, e = .rowSet r false ∧ before = some (rowMask r) ∧ rows = 0) ∨
    ∃ c v, e = .colSample c v ∧ before = some rows ∧ ExactlyOneRow rows := by
  unfold rowStep at h
  split at h
  · cases h
  · split at h
    · next hb => cases h; exact .inl ⟨_, rfl, congrArg some hb, rfl⟩
    · cases h
  · split at h
    · next hb => cases h; exact .inr (.inl ⟨_, rfl, congrArg some hb, rfl⟩)
    · cases h
  · split at h
    · next hb => cases h; exact .inr (.inr ⟨_, _, rfl, rfl, hb⟩)
    · cases h

theorem replayRows_append_one (es : List KpEvent) (e : KpEvent) :
    replayRows (es ++ [e]) = rowStep (replayRows es) e := by
  simp [replayRows]

/-- A history in discipline was in discipline before each of its events. -/
theorem replayRows_of_append {xs ys : List KpEvent} {rows : BitVec 4} (h : replayRows (xs ++ ys) = some rows) :
    ∃ before, replayRows xs = some before := by
  induction ys using List.reverseRecOn generalizing rows with
  | nil => exact ⟨rows, by simpa using h⟩
  | append_singleton ys e ih =>
    rw [← List.append_assoc, replayRows_append_one] at h
    obtain ⟨r, -, hb, -⟩ | ⟨r, -, hb, -⟩ | ⟨c, v, -, hb, -⟩ := rowStep_eq_some h
    all_goals exact ih hb

theorem rowLevels_append_rowHi (es : List KpEvent) (r : Fin 4) :
    rowLevels (es ++ [.rowSet r true]) = rowLevels es ||| rowMask r := by
  simp [rowLevels, rowMask]

theorem rowLevels_append_rowLo (es : List KpEvent) (r : Fin 4) :
    rowLevels (es ++ [.rowSet r false]) = rowLevels es &&& ~~~rowMask r := by
  simp [rowLevels, rowMask]

theorem rowLevels_append_sample (es : List KpEvent) (c : Fin 4) (v : Bool) :
    rowLevels (es ++ [.colSample c v]) = rowLevels es := by
  simp [rowLevels]

/-- The levels a disciplined history is replayed to are those its events add up to, and at most one is high. -/
theorem rowLevels_of_replayRows {es : List KpEvent} {rows : BitVec 4} (h : replayRows es = some rows) :
    rowLevels es = rows ∧ AtMostOneRow rows := by
  induction es using List.reverseRecOn generalizing rows with
  | nil => cases h; exact ⟨rfl, .inl rfl⟩
  | append_singleton es e ih =>
    rw [replayRows_append_one] at h
    obtain ⟨r, rfl, hb, rfl⟩ | ⟨r, rfl, hb, rfl⟩ | ⟨c, v, rfl, hb, hone⟩ := rowStep_eq_some h
    · rw [rowLevels_append_rowHi, (ih hb).1]
      exact ⟨BitVec.zero_or, .inr (exactlyOneRow_rowMask r)⟩
    · rw [rowLevels_append_rowLo, (ih hb).1, BitVec.and_not_self]
      exact ⟨rfl, .inl rfl⟩
    · rw [rowLevels_append_sample, (ih hb).1]
      exact ⟨rfl, .inr hone⟩

/-! LCD: the pulses. -/

/-- The byte carries both control bits, as an ASSERT byte does (10_state.md R23). -/
def HasControlBits (cfg : Config) (b : Byte) : Prop :=
  b &&& cfg.displayOn = cfg.displayOn ∧ b &&& cfg.backlightOn = cfg.backlightOn

theorem or_and_of_and {x y m : Byte} (h : x &&& m = m ∨ y &&& m = m) : (x ||| y) &&& m = m := by
  have hd : (x ||| y) &&& m = (x &&& m) ||| (y &&& m) := by ext i; simp [Bool.and_or_distrib_right]
  have habs : ∀ z : Byte, m ||| (z &&& m) = m := fun z => by ext i; simp
  obtain h | h := h
  · rw [hd, h, habs]
  · rw [hd, h, BitVec.or_comm, habs]

theorem HasControlBits.or_left {cfg : Config} {x y : Byte} (h : HasControlBits cfg x) : HasControlBits cfg (x ||| y) :=
  ⟨or_and_of_and (.inl h.1), or_and_of_and (.inl h.2)⟩

theorem HasControlBits.or_right {cfg : Config} {x y : Byte} (h : HasControlBits cfg y) : HasControlBits cfg (x ||| y) :=
  ⟨or_and_of_and (.inr h.1), or_and_of_and (.inr h.2)⟩

theorem hasControlBits_cmdFlags (cfg : Config) : HasControlBits cfg (cmdFlags cfg) :=
  ⟨or_and_of_and (.inl BitVec.and_self), or_and_of_and (.inr BitVec.and_self)⟩

theorem hasControlBits_charFlags (cfg : Config) : HasControlBits cfg (charFlags cfg) :=
  (hasControlBits_cmdFlags cfg).or_left

/-- Where a pulse stands after its ASSERT write: a failed one ends it (41_nibble_writer.md R93). -/
def Phase.afterWrite (completed : Phase) : BusOutcome → Phase
  | .ok => completed
  | .busError => .quiet

theorem phaseStep_assert {cfg : Config} (a : Addr) {b : Byte} (o : BusOutcome) (h : HasControlBits cfg b) :
    phaseStep cfg a (some .quiet) (.busWrite a b o) = some (Phase.asserted.afterWrite o) := by
  obtain ⟨hd, hb⟩ := h
  simp only [phaseStep, hd, hb]
  cases o <;> rfl

theorem phaseStep_release (cfg : Config) (a : Addr) (o : BusOutcome) :
    phaseStep cfg a (some .strobed) (.busWrite a cfg.backlightOn o) = some (Phase.released.afterWrite o) := by
  simp only [phaseStep]
  cases o <;> rfl

/-- The five events of a disciplined history, each with where it stands before and after. -/
theorem phaseStep_eq_some {cfg : Config} {a : Addr} {before : Option Phase} {e : LcdEvent} {p : Phase}
    (h : phaseStep cfg a before e = some p) :
    (before = some .fresh ∧ e = .delay 80 ∧ p = .quiet) ∨
    (∃ b o, before = some .quiet ∧ e = .busWrite a b o ∧ HasControlBits cfg b ∧ p = Phase.asserted.afterWrite o) ∨
    (before = some .asserted ∧ e = .delay 1 ∧ p = .strobed) ∨
    (∃ o, before = some .strobed ∧ e = .busWrite a cfg.backlightOn o ∧ p = Phase.released.afterWrite o) ∨
    (before = some .released ∧ e = .delay 5 ∧ p = .quiet) := by
  unfold phaseStep at h
  split at h
  · split at h
    · next hn => cases h; exact .inl ⟨rfl, by rw [hn], rfl⟩
    · cases h
  · next b o =>
    split at h
    · next hb =>
      obtain ⟨rfl, hd, hl⟩ := hb
      refine .inr (.inl ⟨b, o, rfl, rfl, ⟨hd, hl⟩, ?_⟩)
      cases o <;> cases h <;> rfl
    · cases h
  · split at h
    · next hn => cases h; exact .inr (.inr (.inl ⟨rfl, by rw [hn], rfl⟩))
    · cases h
  · next o =>
    split at h
    · next hb =>
      obtain ⟨rfl, rfl⟩ := hb
      refine .inr (.inr (.inr (.inl ⟨o, rfl, rfl, ?_⟩)))
      cases o <;> cases h <;> rfl
    · cases h
  · split at h
    · next hn => cases h; exact .inr (.inr (.inr (.inr ⟨rfl, by rw [hn], rfl⟩)))
    · cases h
  · cases h

theorem phaseStep_none (cfg : Config) (a : Addr) (e : LcdEvent) : phaseStep cfg a none e = none := rfl

theorem replayBus_append_one (cfg : Config) (a : Addr) (es : List LcdEvent) (e : LcdEvent) :
    replayBus cfg a (es ++ [e]) = phaseStep cfg a (replayBus cfg a es) e := by
  simp [replayBus]

/-- A history in discipline was in discipline before each of its events. -/
theorem replayBus_of_append {cfg : Config} {a : Addr} {xs ys : List LcdEvent} {p : Phase}
    (h : replayBus cfg a (xs ++ ys) = some p) : ∃ q, replayBus cfg a xs = some q := by
  induction ys using List.reverseRecOn generalizing p with
  | nil => exact ⟨p, by simpa using h⟩
  | append_singleton ys e ih =>
    rw [← List.append_assoc, replayBus_append_one] at h
    cases hb : replayBus cfg a (xs ++ ys) with
    | none => rw [hb, phaseStep_none] at h; cases h
    | some q => exact ih hb

/-- Each event of a disciplined history is in discipline where it comes. -/
theorem phaseStep_of_replayBus {cfg : Config} {a : Addr} {xs ys : List LcdEvent} {e : LcdEvent} {p : Phase}
    (h : replayBus cfg a (xs ++ e :: ys) = some p) : ∃ q, phaseStep cfg a (replayBus cfg a xs) e = some q := by
  rw [List.append_cons] at h
  obtain ⟨q, hq⟩ := replayBus_of_append h
  exact ⟨q, by rw [← replayBus_append_one]; exact hq⟩

/-- Nothing has been done only before the first event. -/
theorem eq_nil_of_replayBus_fresh {cfg : Config} {a : Addr} {es : List LcdEvent}
    (h : replayBus cfg a es = some .fresh) : es = [] := by
  induction es using List.reverseRecOn with
  | nil => rfl
  | append_singleton es e _ =>
    rw [replayBus_append_one] at h
    obtain ⟨-, -, hp⟩ | ⟨b, o, -, -, -, hp⟩ | ⟨-, -, hp⟩ | ⟨o, -, -, hp⟩ | ⟨-, -, hp⟩ := phaseStep_eq_some h
    · cases hp
    · cases o <;> cases hp
    · cases hp
    · cases o <;> cases hp
    · cases hp

/-- A RELEASE write is owed exactly after the 1 ms delay. -/
theorem replayBus_strobed_iff {cfg : Config} {a : Addr} {es : List LcdEvent} {p : Phase}
    (h : replayBus cfg a es = some p) : p = .strobed ↔ es.getLast? = some (.delay 1) := by
  induction es using List.reverseRecOn with
  | nil => cases h; simp
  | append_singleton es e _ =>
    rw [replayBus_append_one] at h
    rw [List.getLast?_concat]
    obtain ⟨-, rfl, rfl⟩ | ⟨b, o, -, rfl, -, rfl⟩ | ⟨-, rfl, rfl⟩ | ⟨o, -, rfl, rfl⟩ | ⟨-, rfl, rfl⟩ :=
      phaseStep_eq_some h
    · simp
    · cases o <;> simp [Phase.afterWrite]
    · simp
    · cases o <;> simp [Phase.afterWrite]
    · simp

end Sys2Proof.Machine
end

section
/-! The invariant: it holds at reset, and every step keeps it (10_state.md R18, R20, R22; 41_nibble_writer.md R90). -/

namespace Sys2Proof.Machine

/-! KP. -/

theorem Kp.inv_reset : Kp.reset.Inv := ⟨rfl, rfl⟩

theorem Kp.inv_rst (k : Kp) : k.rst.Inv := ⟨rfl, rfl⟩

/-- A command changes neither the row lines nor the pin history, and the first position has all rows low. -/
theorem Kp.inv_kpAccept {k : Kp} (hpc : k.pc = .idle) (h : k.Inv) : (kpAccept k).Inv := by
  unfold kpAccept
  cases decodeKp k.port with
  | instr i rest => simpa [Kp.Inv, hpc, rowsAt] using h
  | reserved why rest => simpa [Kp.Inv, hpc, rowsAt] using h
  | incomplete => exact h

/-- The next position of a row's sample has that row high still. -/
theorem rowsAt_next_sample (r c : Fin 4) : rowsAt (KpPc.sample r c).next = rowMask r := by
  simp only [KpPc.next]
  split <;> rfl

/-- The position after a row went low has all rows low. -/
theorem rowsAt_next_rowLo (r : Fin 4) : rowsAt (KpPc.rowLo r).next = 0 := by
  simp only [KpPc.next]
  split <;> rfl

theorem Kp.inv_kpAdvance {k : Kp} (h : k.Inv) : (kpAdvance k).Inv := by
  obtain ⟨hrows, hes⟩ := h
  cases hpc : k.pc with
  | idle => rw [kpAdvance_idle hpc]; exact ⟨hrows, hes⟩
  | edge =>
    rw [kpAdvance_edge hpc]
    rw [hpc] at hrows
    exact ⟨hrows, hes⟩
  | decode =>
    rw [kpAdvance_inside (by simp [hpc]) (by simp [hpc]), hpc]
    rw [hpc] at hrows
    exact ⟨hrows, hes⟩
  | rowHi r =>
    have hlow : k.rowOut = 0 := by rw [hrows, hpc]; rfl
    rw [kpAdvance_inside (by simp [hpc]) (by simp [hpc]), hpc]
    refine ⟨?_, ?_⟩
    · simp [kpAct, hlow, KpPc.next, rowsAt, rowMask]
    · simpa [kpAct, hlow, replayRows_append_one, hes] using rowStep_rowHi r
  | sample r c =>
    have hhigh : k.rowOut = rowMask r := by rw [hrows, hpc]; rfl
    rw [kpAdvance_inside (by simp [hpc]) (by simp [hpc]), hpc]
    refine ⟨?_, ?_⟩
    · simp [kpAct, sampleCell_eq, hhigh, rowsAt_next_sample]
    · simp [kpAct, sampleCell_eq, replayRows_append_one, hes, hhigh, rowStep_sample _ _ (exactlyOneRow_rowMask r)]
  | rowLo r =>
    have hhigh : k.rowOut = rowMask r := by rw [hrows, hpc]; rfl
    rw [kpAdvance_inside (by simp [hpc]) (by simp [hpc]), hpc]
    refine ⟨?_, ?_⟩
    · simp [kpAct, hhigh, rowsAt_next_rowLo]
    · simp [kpAct, hhigh, replayRows_append_one, hes, rowStep_rowLo]

theorem Kp.inv_after {k : Kp} (t : Turn) (h : k.Inv) : (k.after t).Inv := by
  by_cases ht : t = .rst
  · rw [ht]; exact k.inv_rst
  · exact Kp.after_induct ht h (fun hpc => Kp.inv_kpAccept hpc h) fun _ => Kp.inv_kpAdvance

/-! LCD. -/

theorem phaseAt_init_succ (st : LcdState) (i : Nat) : phaseAt st (.init (i + 1)) = stepPhase (Fin.ofNat 4 i) := rfl

/-- A step of a pulse that completes takes the history from before that step to before the next. -/
theorem phaseStep_pulseAct {cfg : Config} (a : Addr) (payload : Byte) {flags : Byte} (h : HasControlBits cfg flags)
    (q : Fin 4) :
    phaseStep cfg a (some (stepPhase q)) ((pulseAct cfg payload flags q).event a) = some (stepPhase (q + 1)) := by
  match q with
  | 0 => exact phaseStep_assert a .ok h.or_right
  | 1 => rfl
  | 2 => exact phaseStep_release cfg a .ok
  | 3 => rfl

/-- A write of a pulse that fails ends the pulse. -/
theorem phaseStep_pulseAct_failed {cfg : Config} (a : Addr) {payload flags b : Byte} (h : HasControlBits cfg flags)
    {q : Fin 4} (hb : pulseAct cfg payload flags q = .write b) :
    phaseStep cfg a (some (stepPhase q)) (.busWrite a b .busError) = some .quiet := by
  match q with
  | 0 => cases hb; exact phaseStep_assert a .busError h.or_right
  | 1 => cases hb
  | 2 => cases hb; exact phaseStep_release cfg a .busError
  | 3 => cases hb

/-- Where the history stands when the step at a position has completed. -/
def phaseAfter : LcdPc → Phase
  | .idle => .quiet
  | .init i => stepPhase (Fin.ofNat 4 i)
  | .text _ _ q => stepPhase (q + 1)

@[simp] theorem stepPhase_zero : stepPhase 0 = .quiet := rfl

/-- The step at a position, completed, is in discipline there. -/
theorem phaseStep_event {cfg : Config} {text : List Byte} {p : LcdPc} {a : LcdAct} (addr : Addr) (st : LcdState)
    (h : stepAt cfg text p = some a) :
    phaseStep cfg addr (some (phaseAt st p)) (a.event addr) = some (phaseAfter p) := by
  cases p with
  | idle => cases h
  | init i =>
    cases i with
    | zero => cases h; rfl
    | succ i =>
      cases h
      have hnext : Fin.ofNat 4 i + 1 = Fin.ofNat 4 (i + 1) := by ext; simp [Fin.val_add]
      rw [phaseAfter, ← hnext]
      exact phaseStep_pulseAct addr _ (hasControlBits_cmdFlags cfg) _
  | text j h' q =>
    obtain ⟨c, -, rfl⟩ := Option.map_eq_some_iff.mp h
    exact phaseStep_pulseAct addr _ (hasControlBits_charFlags cfg) q

/-- The step at a position is the power-on delay, or a step of a pulse with flags that carry both control bits. -/
theorem stepAt_cases {cfg : Config} {text : List Byte} {p : LcdPc} {a : LcdAct} (h : stepAt cfg text p = some a) :
    p = .init 0 ∧ a = .wait tPowerOn ∨
    ∃ payload flags q, HasControlBits cfg flags ∧ a = pulseAct cfg payload flags q ∧
      (∀ st, phaseAt st p = stepPhase q) ∧ isWritePos p = (q.val % 2 == 0) := by
  cases p with
  | idle => cases h
  | init i =>
    cases i with
    | zero => cases h; exact .inl ⟨rfl, rfl⟩
    | succ i =>
      cases h
      refine .inr ⟨_, _, _, hasControlBits_cmdFlags cfg, rfl, fun st => phaseAt_init_succ st i, ?_⟩
      rw [Bool.eq_iff_iff]
      simp [isWritePos]
      omega
  | text j h q =>
    obtain ⟨c, -, rfl⟩ := Option.map_eq_some_iff.mp h
    exact .inr ⟨_, _, q, hasControlBits_charFlags cfg, rfl, fun _ => rfl, rfl⟩

/-- The write positions are those whose step is a write (42_lcd_driver.md R101). -/
theorem isWritePos_iff {cfg : Config} {text : List Byte} {p : LcdPc} {a : LcdAct} (h : stepAt cfg text p = some a) :
    isWritePos p = true ↔ ∃ b, a = .write b := by
  obtain ⟨rfl, rfl⟩ | ⟨payload, flags, q, -, rfl, -, hw⟩ := stepAt_cases h
  · simp [isWritePos]
  · rw [hw]
    match q with
    | 0 => simp [pulseAct]
    | 1 => simp [pulseAct]
    | 2 => simp [pulseAct]
    | 3 => simp [pulseAct]

theorem Lcd.inv_reset (cfg : Config) : Lcd.reset.Inv cfg := ⟨rfl, rfl, by decide⟩

theorem Lcd.inv_rst (cfg : Config) (l : Lcd) : (l.rst cfg).Inv cfg := ⟨rfl, rfl, by simp⟩

section Fits
variable {cfg : Config} {l : Lcd}

theorem fits_idle (h : positionFits cfg l = true) (hpc : l.pc = .idle) : l.text = [] ∧ l.busHung = false := by
  simpa [positionFits, hpc] using h

theorem fits_init {i : Nat} (h : positionFits cfg l = true) (hpc : l.pc = .init i) :
    l.text = [] ∧ l.state = .uninit ∧ i < initLength cfg := by
  simpa [positionFits, hpc, and_assoc] using h

theorem fits_text {j : Nat} {h' : Half} {q : Fin 4} (h : positionFits cfg l = true) (hpc : l.pc = .text j h' q) :
    j < l.text.length ∧ l.state = .ready := by
  simpa [positionFits, hpc] using h

/-- A safe LCD that is idle holds no operand and waits for no transaction. -/
theorem Lcd.Inv.at_idle (h : l.Inv cfg) (hpc : l.pc = .idle) : l.text = [] ∧ l.busHung = false := fits_idle h.2.1 hpc

/-- A safe LCD in an operation has a step to perform. -/
theorem Lcd.Inv.exists_step (h : l.Inv cfg) (hpc : l.pc ≠ .idle) : ∃ a, stepAt cfg l.text l.pc = some a := by
  cases hp : l.pc with
  | idle => exact absurd hp hpc
  | init i =>
    cases i with
    | zero => exact ⟨_, rfl⟩
    | succ i => exact ⟨_, rfl⟩
  | text j h' q => exact ⟨_, stepAt_text h' q (List.getElem?_eq_getElem (fits_text h.2.1 hp).1)⟩

/-- Where the step at the position stands completed, the move to the next position, or the end of the operation, makes
the invariant hold again. -/
theorem Lcd.inv_lcdMoveOn (hpc : l.pc ≠ .idle) (hh : l.busHung = false) (hfits : positionFits cfg l = true)
    (hreplay : replayBus cfg l.addr l.events = some (phaseAfter l.pc)) : (lcdMoveOn cfg l).Inv cfg := by
  cases hp : l.pc with
  | idle => exact absurd hp hpc
  | init i =>
    obtain ⟨htext, hstate, hi⟩ := fits_init hfits hp
    rw [hp] at hreplay
    by_cases hmore : i + 1 < initLength cfg
    · rw [lcdMoveOn_init_next hp hmore]
      exact ⟨hreplay, by simp [positionFits, htext, hstate, hmore], by simp [hh]⟩
    · have hend : Fin.ofNat 4 i = 0 := by
        have hlen := initLength_eq cfg
        ext
        simp
        omega
      rw [phaseAfter, hend] at hreplay
      rw [lcdMoveOn_init_last hp hmore]
      exact ⟨hreplay, by simp [positionFits, hh], by simp [hh]⟩
  | text j h q =>
    obtain ⟨hj, hstate⟩ := fits_text hfits hp
    rw [hp] at hreplay
    by_cases hq : q = 3
    · subst hq
      cases h with
      | hi =>
        rw [lcdMoveOn_text_hi hp]
        exact ⟨hreplay, by simp [positionFits, hj, hstate], by simp [hh]⟩
      | lo =>
        by_cases hmore : j + 1 < l.text.length
        · rw [lcdMoveOn_text_lo hp hmore]
          exact ⟨hreplay, by simp [positionFits, hmore, hstate], by simp [hh]⟩
        · rw [lcdMoveOn_text_last hp hmore]
          exact ⟨by simpa [phaseAt, phaseAfter, hstate] using hreplay, by simp [positionFits, hh], by simp [hh]⟩
    · rw [lcdMoveOn_text_inside hp hq]
      exact ⟨hreplay, by simp [positionFits, hj, hstate], by simp [hh]⟩

theorem Lcd.positionFits_did (a : LcdAct) : positionFits cfg (l.did a) = positionFits cfg l := by
  simp [positionFits]

/-- A completed step and the move that follows keep the invariant. -/
theorem Lcd.inv_lcdMoveOn_did {a : LcdAct} (h : l.Inv cfg) (hh : l.busHung = false)
    (hs : stepAt cfg l.text l.pc = some a) : (lcdMoveOn cfg (l.did a)).Inv cfg := by
  obtain ⟨hreplay, hfits, -⟩ := h
  refine Lcd.inv_lcdMoveOn (by simpa using ne_idle_of_stepAt hs) (by simpa using hh)
    (by rw [positionFits_did]; exact hfits) ?_
  rw [Lcd.did_events, replayBus_append_one, Lcd.did_addr, Lcd.did_pc, hreplay]
  exact phaseStep_event l.addr l.state hs

/-- The exception in an operation leaves the lifecycle out of UNINIT. -/
theorem Lcd.Inv.stateAfterError_ne (h : l.Inv cfg) (hpc : l.pc ≠ .idle) : stateAfterError l ≠ .uninit := by
  cases hp : l.pc with
  | idle => exact absurd hp hpc
  | init i => simp [stateAfterError, hp]
  | text j h' q => simp [stateAfterError, hp, (fits_text h.2.1 hp).2]

/-- The exception keeps the invariant: the failed write has ended its pulse. -/
theorem Lcd.inv_raiseBusError {b : Byte} (h : l.Inv cfg) (hh : l.busHung = false)
    (hs : stepAt cfg l.text l.pc = some (.write b)) :
    (raiseBusError (recordWrite b .busError (l.answered 1))).Inv cfg := by
  have hne : stateAfterError (recordWrite b .busError (l.answered 1)) ≠ .uninit :=
    h.stateAfterError_ne (ne_idle_of_stepAt hs)
  refine ⟨?_, by simp [positionFits, hh], by simp [hh]⟩
  obtain ⟨-, hw⟩ | ⟨payload, flags, q, hflags, hw, hphase, -⟩ := stepAt_cases hs
  · cases hw
  · have hfailed := phaseStep_pulseAct_failed l.addr hflags hw.symm
    rw [← hphase l.state, ← h.1] at hfailed
    simpa [replayBus_append_one, phaseAt, hne] using hfailed

/-- A write that never completes keeps the invariant: the position is that of a write. -/
theorem Lcd.inv_hang {b : Byte} (h : l.Inv cfg) (hs : stepAt cfg l.text l.pc = some (.write b)) :
    ({ l.answered 1 with busHung := true } : Lcd).Inv cfg := by
  obtain ⟨hreplay, hfits, -⟩ := h
  have hpc := ne_idle_of_stepAt hs
  refine ⟨hreplay, ?_, fun _ => (isWritePos_iff hs).mpr ⟨b, rfl⟩⟩
  cases hp : l.pc with
  | idle => exact absurd hp hpc
  | init i =>
    obtain ⟨htext, hstate, hi⟩ := fits_init hfits hp
    simp [positionFits, hp, htext, hstate, hi]
  | text j h' q =>
    obtain ⟨hj, hstate⟩ := fits_text hfits hp
    simp [positionFits, hp, hj, hstate]

theorem Lcd.inv_lcdAdvance (h : l.Inv cfg) : (lcdAdvance cfg l).Inv cfg := by
  by_cases hh : l.busHung = true
  · rw [lcdAdvance_hung hh]; exact h
  · by_cases hpc : l.pc = .idle
    · rw [lcdAdvance_idle hpc]; exact h
    · have hfree : l.busHung = false := by simpa using hh
      obtain ⟨a, hs⟩ := h.exists_step hpc
      obtain hadv | ⟨b, rfl, hadv⟩ | ⟨b, rfl, hadv⟩ := lcdAdvance_cases hfree hs
      · rw [hadv]; exact Lcd.inv_lcdMoveOn_did h hfree hs
      · rw [hadv]; exact Lcd.inv_raiseBusError h hfree hs
      · rw [hadv]; exact Lcd.inv_hang h hs

/-- An UNINIT driver that is idle has done nothing yet. -/
theorem Lcd.Inv.events_nil (h : l.Inv cfg) (hpc : l.pc = .idle) (hstate : l.state = .uninit) : l.events = [] := by
  obtain ⟨hreplay, -, -⟩ := h
  rw [hpc, hstate] at hreplay
  exact eq_nil_of_replayBus_fresh hreplay

theorem Lcd.inv_lcdAccept (h : l.Inv cfg) (hpc : l.pc = .idle) : (lcdAccept cfg l).Inv cfg := by
  obtain ⟨htext, hh⟩ := h.at_idle hpc
  have hreplay := h.1
  rw [hpc] at hreplay
  obtain ha | ⟨rest, ha⟩ | ⟨rest, hs, ha⟩ | ⟨a, rest, hs, -, ha⟩ | ⟨text, rest, hs, ht, ha⟩ := lcdAccept_cases cfg l
  · rw [ha]; exact h
  · rw [ha]; exact ⟨by simpa [hpc] using hreplay, by simp [positionFits, hpc, htext, hh], by simp [hh]⟩
  · rw [ha]; exact ⟨hreplay, by simp [positionFits, hh], by simp [hh]⟩
  · rw [ha]
    refine ⟨?_, by simp [positionFits, htext, hs, initLength_eq], by simp [hh]⟩
    simp [h.events_nil hpc hs, replayBus, phaseAt]
  · rw [ha]
    refine ⟨by simpa [phaseAt, hs] using hreplay, ?_, by simp [hh]⟩
    simpa [positionFits, hs] using List.length_pos_iff.mpr ht

theorem Lcd.inv_after (t : Turn) (h : l.Inv cfg) : (l.after cfg t).Inv cfg := by
  by_cases ht : t = .rst
  · rw [ht]; exact l.inv_rst cfg
  · exact Lcd.after_induct ht (fun hpc => (h.at_idle hpc).2) h (fun hpc => Lcd.inv_lcdAccept h hpc)
      fun _ => Lcd.inv_lcdAdvance

end Fits

/-- Settles O43: the reset values of each agent meet its part. -/
theorem invariantHoldsAtReset : Obligations.InvariantHoldsAtReset := by
  unfold Obligations.InvariantHoldsAtReset
  exact ⟨Kp.inv_reset, Lcd.inv_reset defaultConfig⟩

/-- Settles O44: every turn of each agent keeps its part, since a whole operation is its steps one after another and
every step keeps it. -/
theorem everyStepKeepsTheInvariant : Obligations.EveryStepKeepsTheInvariant := by
  unfold Obligations.EveryStepKeepsTheInvariant
  intro s t ⟨hkp, hlcd⟩ h
  refine ⟨?_, ?_⟩
  · rw [step_kp h]; exact Kp.inv_after s.turn hkp
  · rw [step_lcd h, step_cfg h]; exact Lcd.inv_after s.turn hlcd

end Sys2Proof.Machine
end

section
/-! The state family: what the two sequencers, the histories, the lifecycle and the agents may do (10_state.md). -/

namespace Sys2Proof.Machine

/-! The KP sequencer's order. -/

/-- Inside an operation and before its last position, an advance goes to the next position. -/
theorem kpAdvance_pc {k : Kp} (hi : k.pc ≠ .idle) (he : k.pc ≠ .edge) : (kpAdvance k).pc = k.pc.next := by
  rw [kpAdvance_inside hi he]

theorem kpEvent_busy {k : Kp} (h : k.pc ≠ .idle) : kpEvent k = kpAdvance k := if_neg h

/-- Settles O16: accepting goes to the first position, and every advance to `KpPc.next`. -/
theorem kpSequencerFollowsTheFixedOrder : Obligations.KpSequencerFollowsTheFixedOrder := by
  unfold Obligations.KpSequencerFollowsTheFixedOrder
  intro s t hturn hstep
  have hkp : t.kp = kpEvent s.kp := by rw [step_kp hstep, hturn]; rfl
  have hnext : ∀ p, s.kp.pc = p → p ≠ .idle → p ≠ .edge → t.kp.pc = p.next := by
    rintro p rfl hi he
    rw [hkp, kpEvent_busy hi, kpAdvance_pc hi he]
  refine ⟨?accept, fun r h => hnext _ h nofun nofun, fun r h => hnext _ h nofun nofun, fun r h => hnext _ h nofun nofun,
    fun r h => hnext _ h nofun nofun, fun r h => hnext _ h nofun nofun, fun h => hnext _ h nofun nofun,
    fun h => hnext _ h nofun nofun, fun h => hnext _ h nofun nofun, fun h => hnext _ h nofun nofun,
    fun h => hnext _ h nofun nofun, ?last⟩
  case accept =>
    intro rest hpc hport
    rw [hkp]
    simp [kpEvent, hpc, kpAccept, hport, decodeKp]
  case last =>
    intro hpc
    rw [hkp, kpEvent_busy (by simp [hpc]), kpAdvance_edge hpc]
    exact ⟨rfl, _, rfl⟩

/-! The rows. -/

/-- Settles O18: by the invariant the row history is disciplined, and so is every part of it from the start. -/
theorem exactlyOneRowHighAtEverySample : Obligations.ExactlyOneRowHighAtEverySample := by
  unfold Obligations.ExactlyOneRowHighAtEverySample
  rintro s ⟨⟨hrows, hreplay⟩, -⟩
  obtain ⟨hlevels, hone⟩ := rowLevels_of_replayRows hreplay
  refine ⟨hone, ?_, hlevels.symm, ?_, ?_⟩
  · rintro (hpc | ⟨r, hpc⟩)
    · rw [hrows, hpc]; rfl
    · rw [hrows, hpc]; rfl
  · intro xs ys hes
    rw [hes] at hreplay
    obtain ⟨before, hb⟩ := replayRows_of_append hreplay
    obtain ⟨hl, hone⟩ := rowLevels_of_replayRows hb
    rw [hl]
    exact hone
  · intro xs c v ys hes
    rw [hes, List.append_cons] at hreplay
    obtain ⟨rows, hr⟩ := replayRows_of_append hreplay
    rw [replayRows_append_one] at hr
    obtain ⟨r, he, -⟩ | ⟨r, he, -⟩ | ⟨c, v, -, hb, hone⟩ := rowStep_eq_some hr
    · cases he
    · cases he
    · rw [(rowLevels_of_replayRows hb).1]
      exact hone

/-! The LCD sequencer's order. -/

theorem lcdEvent_busy {cfg : Config} {l : Lcd} (h : l.pc ≠ .idle) : lcdEvent cfg l = lcdAdvance cfg l := if_neg h

/-- Settles O32: where the write, if the step is one, answers Ok, the step completes and the sequencer moves on. -/
theorem lcdSequencerFollowsTheFixedOrder : Obligations.LcdSequencerFollowsTheFixedOrder := by
  unfold Obligations.LcdSequencerFollowsTheFixedOrder
  rintro s t ⟨-, hinv⟩ hturn hstep hh hok
  have hmove : s.lcd.pc ≠ .idle → ∃ m : Lcd, m.pc = s.lcd.pc ∧ m.text = s.lcd.text ∧ m.results = s.lcd.results ∧
      t.lcd = lcdMoveOn s.cfg m := by
    intro hpc
    obtain ⟨a, ha⟩ := hinv.exists_step hpc
    have hlcd : t.lcd = lcdEvent s.cfg s.lcd := by rw [step_lcd hstep, hturn]; rfl
    refine ⟨s.lcd.did a, by simp, by simp, by simp, ?_⟩
    rw [hlcd, lcdEvent_busy hpc]
    exact lcdAdvance_did hh ha fun b hb => hok ((isWritePos_iff ha).mpr ⟨b, hb⟩)
  have hlen := initLength_eq s.cfg
  have hinside : ∀ j h (q : Fin 4), q ≠ 3 → s.lcd.pc = .text j h q → t.lcd.pc = .text j h (q + 1) := by
    intro j h q hq hpc
    obtain ⟨m, hmpc, -, -, hm⟩ := hmove (by simp [hpc])
    rw [hm, lcdMoveOn_text_inside (hmpc.trans hpc) hq]
  refine ⟨?initNext, ?initLast, fun j h => hinside j h 0 (by decide), fun j h => hinside j h 1 (by decide),
    fun j h => hinside j h 2 (by decide), ?textHi, ?textLo, ?textLast⟩
  case initNext =>
    intro i hpc hi
    obtain ⟨m, hmpc, -, hres, hm⟩ := hmove (by simp [hpc])
    rw [hm, lcdMoveOn_init_next (hmpc.trans hpc) (by omega)]
    exact ⟨rfl, hres⟩
  case initLast =>
    intro hpc
    obtain ⟨m, hmpc, -, hres, hm⟩ := hmove (by simp [hpc])
    rw [hm, lcdMoveOn_init_last (hmpc.trans hpc) (by omega)]
    exact ⟨rfl, rfl, by simp [hres]⟩
  case textHi =>
    intro j hpc
    obtain ⟨m, hmpc, -, -, hm⟩ := hmove (by simp [hpc])
    rw [hm, lcdMoveOn_text_hi (hmpc.trans hpc)]
  case textLo =>
    intro j hpc hj
    obtain ⟨m, hmpc, htext, -, hm⟩ := hmove (by simp [hpc])
    rw [hm, lcdMoveOn_text_lo (hmpc.trans hpc) (by rw [htext]; exact hj)]
  case textLast =>
    intro j hpc hj
    obtain ⟨m, hmpc, htext, hres, hm⟩ := hmove (by simp [hpc])
    rw [hm, lcdMoveOn_text_last (hmpc.trans hpc) (by rw [htext]; omega)]
    exact ⟨rfl, by simp [hres]⟩

/-! The lifecycle. -/

/-- A handshake that began with the results `rs`: in progress and UNINIT, or ended READY with Ok, or FAILED with
BusError (10_state.md R20). -/
def Handshaken (rs : List LcdResult) (l : Lcd) : Prop :=
  ((∃ i, l.pc = .init i) ∧ l.state = .uninit ∧ l.results = rs) ∨
  (l.pc = .idle ∧ l.state = .ready ∧ l.results = rs ++ [.ok]) ∨
  (l.pc = .idle ∧ l.state = .failed ∧ l.results = rs ++ [.busError])

/-- No handshake is in progress, and the lifecycle is `st`. -/
def OutsideHandshake (st : LcdState) (l : Lcd) : Prop := (∀ i, l.pc ≠ .init i) ∧ l.state = st

section Lifecycle
variable {cfg : Config} {l : Lcd}

theorem handshaken_lcdMoveOn {rs : List LcdResult} {i : Nat} (hpc : l.pc = .init i) (hs : l.state = .uninit)
    (hr : l.results = rs) : Handshaken rs (lcdMoveOn cfg l) := by
  by_cases hmore : i + 1 < initLength cfg
  · rw [lcdMoveOn_init_next hpc hmore]
    exact .inl ⟨⟨_, rfl⟩, hs, hr⟩
  · rw [lcdMoveOn_init_last hpc hmore]
    exact .inr (.inl ⟨rfl, rfl, by simp [hr]⟩)

theorem handshaken_lcdAdvance {rs : List LcdResult} (h : Handshaken rs l) : Handshaken rs (lcdAdvance cfg l) := by
  obtain ⟨⟨i, hpc⟩, hs, hr⟩ | hdone | hdone := h
  · by_cases hh : l.busHung = true
    · rw [lcdAdvance_hung hh]
      exact .inl ⟨⟨i, hpc⟩, hs, hr⟩
    · obtain ⟨a, ha⟩ : ∃ a, stepAt cfg l.text l.pc = some a := by
        rw [hpc]
        cases i with
        | zero => exact ⟨_, rfl⟩
        | succ i => exact ⟨_, rfl⟩
      obtain hadv | ⟨b, -, hadv⟩ | ⟨b, -, hadv⟩ := lcdAdvance_cases (by simpa using hh) ha
      · rw [hadv]
        exact handshaken_lcdMoveOn (by simpa using hpc) (by simpa using hs) (by simpa using hr)
      · rw [hadv]
        exact .inr (.inr ⟨rfl, by simp [stateAfterError, hpc], by simp [hr]⟩)
      · rw [hadv]
        exact .inl ⟨⟨i, hpc⟩, hs, hr⟩
  · rw [lcdAdvance_idle hdone.1]
    exact .inr (.inl hdone)
  · rw [lcdAdvance_idle hdone.1]
    exact .inr (.inr hdone)

theorem outsideHandshake_lcdMoveOn {st : LcdState} (h : OutsideHandshake st l) :
    OutsideHandshake st (lcdMoveOn cfg l) := by
  obtain ⟨hinit, hs⟩ := h
  unfold lcdMoveOn
  split
  · exact ⟨hinit, hs⟩
  · next i hpc => exact absurd hpc (hinit i)
  · split
    · exact ⟨nofun, hs⟩
    · split
      · exact ⟨nofun, hs⟩
      · split
        · exact ⟨nofun, hs⟩
        · exact ⟨nofun, hs⟩

theorem outsideHandshake_lcdAdvance {st : LcdState} (h : OutsideHandshake st l) :
    OutsideHandshake st (lcdAdvance cfg l) := by
  obtain ⟨hinit, hs⟩ := h
  by_cases hh : l.busHung = true
  · rw [lcdAdvance_hung hh]
    exact ⟨hinit, hs⟩
  · have hfree : l.busHung = false := by simpa using hh
    by_cases hpc : l.pc = .idle
    · rw [lcdAdvance_idle hpc]
      exact ⟨hinit, hs⟩
    · cases ha : stepAt cfg l.text l.pc with
      | none =>
        rw [lcdAdvance_noStep hfree hpc ha]
        exact ⟨nofun, hs⟩
      | some a =>
        obtain hadv | ⟨b, -, hadv⟩ | ⟨b, -, hadv⟩ := lcdAdvance_cases hfree ha
        · rw [hadv]
          exact outsideHandshake_lcdMoveOn ⟨by simpa using hinit, by simpa using hs⟩
        · rw [hadv]
          refine ⟨nofun, ?_⟩
          cases hp : l.pc with
          | idle => exact absurd hp hpc
          | init i => exact absurd hp (hinit i)
          | text j h q => simp [stateAfterError, hp, hs]
        · rw [hadv]
          exact ⟨hinit, hs⟩

/-- What an idle LCD accepts begins a handshake out of UNINIT, or leaves the lifecycle alone. -/
theorem lcdAccept_lifecycle (hpc : l.pc = .idle) :
    l.state = .uninit ∧ Handshaken l.results (lcdAccept cfg l) ∨ OutsideHandshake l.state (lcdAccept cfg l) := by
  have hinit : ∀ i, l.pc ≠ .init i := by simp [hpc]
  obtain ha | ⟨rest, ha⟩ | ⟨rest, -, ha⟩ | ⟨a, rest, hs, -, ha⟩ | ⟨text, rest, -, -, ha⟩ := lcdAccept_cases cfg l
  · rw [ha]; exact .inr ⟨hinit, rfl⟩
  · rw [ha]; exact .inr ⟨hinit, rfl⟩
  · rw [ha]; exact .inr ⟨nofun, rfl⟩
  · rw [ha]; exact .inl ⟨hs, .inl ⟨⟨0, rfl⟩, hs, rfl⟩⟩
  · rw [ha]; exact .inr ⟨nofun, rfl⟩

/-- Every turn but reset of a safe LCD goes on with a handshake that is UNINIT, or leaves the lifecycle alone. -/
theorem Lcd.after_lifecycle {t : Turn} (ht : t ≠ .rst) (h : l.Inv cfg) :
    l.state = .uninit ∧ Handshaken l.results (l.after cfg t) ∨ OutsideHandshake l.state (l.after cfg t) := by
  have hlift : ∀ {l' : Lcd} (n : Nat), l.state = .uninit ∧ Handshaken l.results l' ∨ OutsideHandshake l.state l' →
      l.state = .uninit ∧ Handshaken l.results ((lcdAdvance cfg)^[n] l') ∨
        OutsideHandshake l.state ((lcdAdvance cfg)^[n] l') := by
    rintro l' n (⟨hs, h⟩ | h)
    · exact .inl ⟨hs, Function.Iterate.rec _ h (fun _ => handshaken_lcdAdvance) n⟩
    · exact .inr (Function.Iterate.rec _ h (fun _ => outsideHandshake_lcdAdvance) n)
  obtain ⟨n, hn | ⟨hpc, hn⟩⟩ := Lcd.after_eq_iterate cfg ht fun hpc => (h.at_idle hpc).2
  · rw [hn]
    apply hlift n
    by_cases hinit : ∃ i, l.pc = .init i
    · obtain ⟨i, hpc⟩ := hinit
      obtain ⟨-, hs, -⟩ := fits_init h.2.1 hpc
      exact .inl ⟨hs, .inl ⟨⟨i, hpc⟩, hs, rfl⟩⟩
    · exact .inr ⟨by simpa using hinit, rfl⟩
  · rw [hn]
    exact hlift n (lcdAccept_lifecycle hpc)

end Lifecycle

/-- Settles O35: a handshake in progress is UNINIT, and it ends READY with Ok or FAILED with BusError. -/
theorem lifecycleHasTwoTransitions : Obligations.LifecycleHasTwoTransitions := by
  unfold Obligations.LifecycleHasTwoTransitions
  rintro s t ⟨-, hinv⟩ hturn hstep
  rw [step_lcd hstep]
  obtain ⟨hs, ⟨-, hs', -⟩ | ⟨-, hend⟩ | ⟨-, hend⟩⟩ | ⟨-, hs'⟩ := Lcd.after_lifecycle hturn hinv
  · exact .inl (hs'.trans hs.symm)
  · exact .inr (.inl ⟨hs, hend⟩)
  · exact .inr (.inr ⟨hs, hend⟩)
  · exact .inl hs'

/-! An idle LCD with a hung transaction, which no run reaches (assumption log 28). -/

theorem runActs_hung {x : LcdPc × LcdAct} {xs : List (LcdPc × LcdAct)} {l : Lcd} (h : l.busHung = true) :
    runActs (x :: xs) l = (.waiting, l) := if_pos h

/-- The command at its port is accepted event by event; run whole it stores its operand and waits. -/
theorem Lcd.served_of_hung (cfg : Config) {l : Lcd} (hpc : l.pc = .idle) (h : l.busHung = true) :
    l.served cfg = lcdAccept cfg l ∨
    (∃ a rest, l.state = .uninit ∧ decodeLcd cfg l.port = .instr (.lcdTryNew a) rest ∧
      l.served cfg = { l with port := rest, addr := a }) ∨
    ∃ text rest, l.served cfg = { l with port := rest, text := text } := by
  unfold Lcd.served lcdAccept
  rw [if_pos hpc]
  cases hd : decodeLcd cfg l.port with
  | instr i rest =>
    obtain ⟨a, rfl⟩ | ⟨text, rfl⟩ := decodeLcd_eq_instr hd
    · by_cases hs : l.state = .uninit
      · exact .inr (.inl ⟨a, rest, hs, rfl, (if_pos hs).trans (congrArg (whenDone initReturn)
          (runActs_hung (l := { l with port := rest, addr := a }) h))⟩)
      · exact .inl (by simp [tryNew, beginTryNew, hs])
    · by_cases hs : l.state = .ready
      · cases text with
        | nil => exact .inl (by simp [writeText, beginWriteText, hs, textActs, runActs, whenDone, lcdReturn])
        | cons c cs =>
          exact .inr (.inr ⟨c :: cs, rest, (if_pos hs).trans (congrArg (whenDone (lcdReturn .ok))
            (runActs_hung (l := { l with port := rest, text := c :: cs }) h))⟩)
      · exact .inl (by simp [writeText, beginWriteText, hs])
  | reserved why rest => exact .inl rfl
  | incomplete => exact .inl rfl

/-- The induction of `Lcd.after_induct` from every state, an idle LCD with a hung transaction included. -/
theorem Lcd.after_induct_hung {cfg : Config} {P : Lcd → Prop} {t : Turn} {l : Lcd} (h : t ≠ .rst) (hl : P l)
    (haccept : l.pc = .idle → P (lcdAccept cfg l)) (hadvance : ∀ l, P l → P (lcdAdvance cfg l))
    (haddr : ∀ a rest, l.pc = .idle → l.state = .uninit → decodeLcd cfg l.port = .instr (.lcdTryNew a) rest →
      P { l with port := rest, addr := a })
    (htext : ∀ text rest, P { l with port := rest, text := text }) : P (l.after cfg t) := by
  by_cases hh : l.pc = .idle → l.busHung = false
  · exact Lcd.after_induct h hh hl haccept hadvance
  · obtain ⟨hpc, hhung⟩ : l.pc = .idle ∧ l.busHung = true := by simpa using hh
    cases t with
    | kp => exact hl
    | kpEvent => exact hl
    | lcdEvent =>
      rw [show l.after cfg .lcdEvent = lcdAccept cfg l from if_pos hpc]
      exact haccept hpc
    | rst => exact absurd rfl h
    | lcd =>
      show P (l.served cfg)
      obtain hs | ⟨a, rest, hu, hd, hs⟩ | ⟨text, rest, hs⟩ := Lcd.served_of_hung cfg hpc hhung
      · rw [hs]; exact haccept hpc
      · rw [hs]; exact haddr a rest hpc hu hd
      · rw [hs]; exact htext text rest

/-! The address. -/

/-- Settles O37: an advance keeps the address and accepting writes it only for LCD.TRY_NEW; the discipline of a safe
history holds every write to it, and an idle UNINIT driver has done nothing. -/
theorem addressIsWrittenOnceAndUsedAlways : Obligations.AddressIsWrittenOnceAndUsedAlways := by
  unfold Obligations.AddressIsWrittenOnceAndUsedAlways
  refine ⟨?written, ?used, ?before⟩
  case written =>
    intro s t hturn hstep hne
    rw [step_lcd hstep] at hne ⊢
    refine Or.resolve_left (Lcd.after_induct_hung (P := fun l => l.addr = s.lcd.addr ∨ s.lcd.state = .uninit ∧
      s.lcd.pc = .idle ∧ ∃ rest, decode s.cfg .lcd s.lcd.port = .instr (.lcdTryNew l.addr) rest)
      hturn (.inl rfl) ?_ ?_ ?_ ?_) hne
    · intro hpc
      obtain ha | ⟨rest, ha⟩ | ⟨rest, -, ha⟩ | ⟨a, rest, hs, hd, ha⟩ | ⟨text, rest, -, -, ha⟩ :=
        lcdAccept_cases s.cfg s.lcd
      · rw [ha]; exact .inl rfl
      · rw [ha]; exact .inl rfl
      · rw [ha]; exact .inl rfl
      · rw [ha]; exact .inr ⟨hs, hpc, rest, hd⟩
      · rw [ha]; exact .inl rfl
    · intro l hl
      rw [(lcdAdvance_keeps s.cfg l).2]
      exact hl
    · intro a rest hpc hs hd
      exact .inr ⟨hs, hpc, rest, hd⟩
    · intro text rest
      exact .inl rfl
  case used =>
    rintro s ⟨-, hreplay, -⟩ a b o hmem
    obtain ⟨xs, ys, hes⟩ := List.append_of_mem hmem
    rw [hes] at hreplay
    obtain ⟨q, hq⟩ := phaseStep_of_replayBus hreplay
    obtain ⟨-, he, -⟩ | ⟨b', o', -, he, -⟩ | ⟨-, he, -⟩ | ⟨o', -, he, -⟩ | ⟨-, he, -⟩ := phaseStep_eq_some hq
    all_goals cases he
    · rfl
    · rfl
  case before =>
    rintro s ⟨-, hinv⟩ hs hpc
    exact hinv.events_nil hpc hs

/-! The control flags. -/

/-- Settles O38: a step leaves the parameters alone; in a disciplined history a write owed after the 1 ms delay is the
RELEASE byte, and any other is an ASSERT byte. -/
theorem controlFlagsAreConstants : Obligations.ControlFlagsAreConstants := by
  unfold Obligations.ControlFlagsAreConstants
  refine ⟨fun s t hstep => step_cfg hstep, ?_⟩
  rintro s ⟨-, hreplay, -⟩ xs a b o ys hes
  rw [hes] at hreplay
  obtain ⟨q, hq⟩ := phaseStep_of_replayBus hreplay
  obtain ⟨-, he, -⟩ | ⟨b', o', hb, he, hflags, -⟩ | ⟨-, he, -⟩ | ⟨o', hb, he, -⟩ | ⟨-, he, -⟩ := phaseStep_eq_some hq
  all_goals cases he
  · have hlast : xs.getLast? ≠ some (.delay 1) := mt (replayBus_strobed_iff hb).mpr nofun
    exact ⟨fun h => absurd h hlast, fun _ => hflags⟩
  · have hlast : xs.getLast? = some (.delay 1) := (replayBus_strobed_iff hb).mp rfl
    exact ⟨fun _ => rfl, fun h => absurd hlast h⟩

/-! The agents. -/

/-- Settles O40: a step is a function of each agent by itself. -/
theorem agentsShareNoState : Obligations.AgentsShareNoState := by
  unfold Obligations.AgentsShareNoState
  intro s s' t t' hturn hstep hstep'
  rw [step_kp hstep, step_lcd hstep, step_kp hstep', step_lcd hstep', ← hturn]
  refine ⟨fun h => ⟨?_, fun hkp => by rw [hkp]⟩, fun h => ⟨?_, fun hlcd hcfg => by rw [hlcd, hcfg]⟩⟩
  · obtain h | h := h <;> rw [h] <;> rfl
  · obtain h | h := h <;> rw [h] <;> rfl

/-! The histories. -/

/-- The history and the results of `k'` are those of `k` with some appended (10_state.md R27). -/
def Kp.Extends (k k' : Kp) : Prop := k.events <+: k'.events ∧ k.results <+: k'.results

/-- The history and the results of `l'` are those of `l` with some appended (10_state.md R27). -/
def Lcd.Extends (l l' : Lcd) : Prop := l.events <+: l'.events ∧ l.results <+: l'.results

theorem Kp.Extends.refl (k : Kp) : k.Extends k := ⟨List.prefix_rfl, List.prefix_rfl⟩

theorem Lcd.Extends.refl (l : Lcd) : l.Extends l := ⟨List.prefix_rfl, List.prefix_rfl⟩

theorem Kp.Extends.trans {k k' k'' : Kp} (h : k.Extends k') (h' : k'.Extends k'') : k.Extends k'' :=
  ⟨h.1.trans h'.1, h.2.trans h'.2⟩

theorem Lcd.Extends.trans {l l' l'' : Lcd} (h : l.Extends l') (h' : l'.Extends l'') : l.Extends l'' :=
  ⟨h.1.trans h'.1, h.2.trans h'.2⟩

theorem extends_kpAccept (k : Kp) : k.Extends (kpAccept k) := by
  unfold kpAccept
  cases decodeKp k.port with
  | instr i rest => exact .refl k
  | reserved why rest => exact ⟨List.prefix_rfl, by simp⟩
  | incomplete => exact .refl k

theorem extends_kpAct (p : KpPc) (k : Kp) : k.Extends (kpAct p k) := by
  cases p with
  | rowHi r => exact ⟨by simp [kpAct], List.prefix_rfl⟩
  | rowLo r => exact ⟨by simp [kpAct], List.prefix_rfl⟩
  | sample r c => simp [Kp.Extends, kpAct, sampleCell_eq]
  | idle => exact .refl k
  | decode => exact .refl k
  | edge => exact .refl k

theorem extends_kpAdvance (k : Kp) : k.Extends (kpAdvance k) := by
  by_cases hi : k.pc = .idle
  · rw [kpAdvance_idle hi]
    exact .refl k
  · by_cases he : k.pc = .edge
    · rw [kpAdvance_edge he]
      exact ⟨List.prefix_rfl, by simp⟩
    · rw [kpAdvance_inside hi he]
      exact extends_kpAct k.pc k

theorem extends_lcdReturn (r : LcdResult) (l : Lcd) : l.Extends (lcdReturn r l) := ⟨List.prefix_rfl, by simp⟩

theorem extends_lcdAccept (cfg : Config) (l : Lcd) : l.Extends (lcdAccept cfg l) := by
  obtain ha | ⟨rest, ha⟩ | ⟨rest, -, ha⟩ | ⟨a, rest, -, -, ha⟩ | ⟨text, rest, -, -, ha⟩ := lcdAccept_cases cfg l
  · rw [ha]; exact .refl l
  · rw [ha]; exact ⟨List.prefix_rfl, by simp⟩
  · rw [ha]; exact extends_lcdReturn .ok _
  · rw [ha]; exact .refl l
  · rw [ha]; exact .refl l

theorem extends_lcdMoveOn (cfg : Config) (l : Lcd) : l.Extends (lcdMoveOn cfg l) := by
  unfold lcdMoveOn
  split
  · exact .refl l
  · split
    · exact .refl l
    · exact extends_lcdReturn .ok l
  · split
    · exact .refl l
    · split
      · exact .refl l
      · split
        · exact .refl l
        · exact extends_lcdReturn .ok l

theorem extends_did (a : LcdAct) (l : Lcd) : l.Extends (l.did a) := by simp [Lcd.Extends]

theorem extends_lcdAdvance (cfg : Config) (l : Lcd) : l.Extends (lcdAdvance cfg l) := by
  by_cases hh : l.busHung = true
  · rw [lcdAdvance_hung hh]
    exact .refl l
  · have hfree : l.busHung = false := by simpa using hh
    by_cases hpc : l.pc = .idle
    · rw [lcdAdvance_idle hpc]
      exact .refl l
    · cases ha : stepAt cfg l.text l.pc with
      | none =>
        rw [lcdAdvance_noStep hfree hpc ha]
        exact extends_lcdReturn .ok l
      | some a =>
        obtain hadv | ⟨b, -, hadv⟩ | ⟨b, -, hadv⟩ := lcdAdvance_cases hfree ha
        · rw [hadv]
          exact (extends_did a l).trans (extends_lcdMoveOn cfg _)
        · rw [hadv]
          simp [Lcd.Extends]
        · rw [hadv]
          exact .refl l

/-- The form of the statement: what is appended, named. -/
theorem exists_append_of_isPrefix {α : Type} {xs ys : List α} (h : xs <+: ys) : ∃ zs, ys = xs ++ zs := by
  obtain ⟨zs, hzs⟩ := h
  exact ⟨zs, hzs.symm⟩

/-- Settles O45: accepting a command and every advance of either sequencer only append. -/
theorem historiesOnlyGrow : Obligations.HistoriesOnlyGrow := by
  unfold Obligations.HistoriesOnlyGrow
  intro s t hturn hstep
  have hkp : s.kp.Extends t.kp := by
    rw [step_kp hstep]
    exact Kp.after_induct hturn (.refl _) (fun _ => extends_kpAccept _) fun k hk => hk.trans (extends_kpAdvance k)
  have hlcd : s.lcd.Extends t.lcd := by
    rw [step_lcd hstep]
    exact Lcd.after_induct_hung hturn (.refl _) (fun _ => extends_lcdAccept _ _)
      (fun l hl => hl.trans (extends_lcdAdvance _ l)) (fun _ _ _ _ _ => .refl _) fun _ _ => .refl _
  exact ⟨exists_append_of_isPrefix hkp.1, exists_append_of_isPrefix hkp.2, exists_append_of_isPrefix hlcd.1,
    exists_append_of_isPrefix hlcd.2⟩

end Sys2Proof.Machine
end

section
/-! A list of steps run on the bus's answers: it goes on while every write answers Ok, and ends at the first that does
not (20_memory.md R36, 60_exceptions.md R121, R133). -/

namespace Sys2Proof.Machine

/-- Is the step a bus write? -/
def LcdAct.isWrite : LcdAct → Bool
  | .write _ => true
  | .wait _ => false

/-- The number of bus writes in a list of steps. -/
def actWrites (xs : List (LcdPc × LcdAct)) : Nat := xs.countP (·.2.isWrite)

/-- The events of a list of steps that all complete at address `a`. -/
def actEvents (a : Addr) (xs : List (LcdPc × LcdAct)) : List LcdEvent := xs.map (·.2.event a)

@[simp] theorem actWrites_nil : actWrites [] = 0 := rfl

@[simp] theorem actWrites_write (p : LcdPc) (b : Byte) (xs : List (LcdPc × LcdAct)) :
    actWrites ((p, .write b) :: xs) = actWrites xs + 1 := List.countP_cons_of_pos rfl

@[simp] theorem actWrites_wait (p : LcdPc) (n : Nat) (xs : List (LcdPc × LcdAct)) :
    actWrites ((p, .wait n) :: xs) = actWrites xs := List.countP_cons_of_neg nofun

@[simp] theorem actWrites_append (xs ys : List (LcdPc × LcdAct)) :
    actWrites (xs ++ ys) = actWrites xs + actWrites ys := List.countP_append

/-- Of the first writes some answer first, and the others from there on. -/
theorem Lcd.allOk_answered {l : Lcd} {m n : Nat} (h : l.allOk (m + n)) : (l.answered m).allOk n := fun i hi => by
  rw [Lcd.answer_answered]
  exact h (m + i) (by omega)

/-- LCD at `p` after the steps `xs` have completed: their events in order, their writes answered, all else as it was. -/
def Lcd.ran (xs : List (LcdPc × LcdAct)) (p : LcdPc) (l : Lcd) : Lcd :=
  { l.answered (actWrites xs) with events := l.events ++ actEvents l.addr xs, pc := p }

theorem Lcd.ran_cons (p q : LcdPc) (a : LcdAct) (xs : List (LcdPc × LcdAct)) (l : Lcd) :
    (Lcd.did a { l with pc := p }).ran xs q = l.ran ((p, a) :: xs) q := by
  cases a with
  | wait n => simp [Lcd.ran, Lcd.did, Lcd.answered, actEvents, LcdAct.event]
  | write b =>
    have hans : (l.answered 1).answered (actWrites xs) = l.answered (actWrites ((p, .write b) :: xs)) := by
      rw [Lcd.answered_answered, actWrites_write, Nat.add_comm]
    unfold Lcd.ran
    rw [← hans]
    simp [Lcd.did, Lcd.answered, recordWrite, actEvents, LcdAct.event]

/-- Where every write answers Ok the steps complete. -/
theorem runActs_allOk (xs : List (LcdPc × LcdAct)) {l : Lcd} (hh : l.busHung = false) (hok : l.allOk (actWrites xs)) :
    ∃ p, runActs xs l = (.goOn, l.ran xs p) := by
  induction xs generalizing l with
  | nil => exact ⟨l.pc, by simp [runActs, Lcd.ran, actEvents]⟩
  | cons x xs ih =>
    obtain ⟨p, a⟩ := x
    have hact : lcdAct a { l with pc := p } = (.goOn, Lcd.did a { l with pc := p }) := by
      refine lcdAct_did hh fun b hb => hok 0 ?_
      rw [hb, actWrites_write]
      exact Nat.succ_pos _
    have hrest : (Lcd.did a { l with pc := p }).allOk (actWrites xs) := by
      cases a with
      | wait n => rw [actWrites_wait] at hok; exact hok
      | write b => rw [actWrites_write, Nat.add_comm] at hok; exact Lcd.allOk_answered hok
    obtain ⟨q, hq⟩ := ih (by simpa using hh) hrest
    refine ⟨q, ?_⟩
    rw [runActs_cons _ _ _ _ hh, hact, ← Lcd.ran_cons p q a xs l]
    exact hq

/-- Every write of a list of steps has the steps before it and those after it. -/
theorem exists_write_split {xs : List (LcdPc × LcdAct)} {k : Nat} (h : k < actWrites xs) :
    ∃ ys p b zs, xs = ys ++ (p, .write b) :: zs ∧ actWrites ys = k := by
  induction xs generalizing k with
  | nil => cases h
  | cons x xs ih =>
    obtain ⟨p, a⟩ := x
    cases a with
    | wait n =>
      obtain ⟨ys, q, b, zs, rfl, hys⟩ := ih (by simpa using h)
      exact ⟨(p, .wait n) :: ys, q, b, zs, rfl, by simpa using hys⟩
    | write b =>
      cases k with
      | zero => exact ⟨[], p, b, xs, rfl, rfl⟩
      | succ k =>
        obtain ⟨ys, q, b', zs, rfl, hys⟩ := ih (by simpa using h)
        exact ⟨(p, .write b) :: ys, q, b', zs, rfl, by simpa using hys⟩

/-- Steps up to a write before which all answer Ok: the run has come to that write. -/
theorem runActs_to_write {xs : List (LcdPc × LcdAct)} {k : Nat} (h : k < actWrites xs) {l : Lcd}
    (hh : l.busHung = false) (hok : l.allOk k) :
    ∃ ys p b zs, xs = ys ++ (p, .write b) :: zs ∧ actWrites ys = k ∧
      runActs xs l = match i2cWrite b (l.ran ys p) with
        | (.goOn, l') => runActs zs l'
        | (.ended, l') => (.ended, l')
        | (.waiting, l') => (.waiting, l') := by
  obtain ⟨ys, p, b, zs, rfl, rfl⟩ := exists_write_split h
  obtain ⟨q, hq⟩ := runActs_allOk ys hh hok
  refine ⟨ys, p, b, zs, rfl, rfl, ?_⟩
  rw [runActs_append, hq]
  exact runActs_cons p (.write b) zs (l.ran ys q) hh

/-- Where a write fails and all before it answer Ok, the exception is taken there. -/
theorem runActs_busError {xs : List (LcdPc × LcdAct)} {k : Nat} (h : k < actWrites xs) {l : Lcd}
    (hh : l.busHung = false) (hok : l.allOk k) (ha : l.answer k = .busError) :
    ∃ ys p b zs, xs = ys ++ (p, .write b) :: zs ∧ actWrites ys = k ∧
      runActs xs l = (.ended, raiseBusError (recordWrite b .busError ((l.ran ys p).answered 1))) := by
  obtain ⟨ys, p, b, zs, hxs, hys, hrun⟩ := runActs_to_write h hh hok
  have hanswer : (l.ran ys p).answer 0 = .busError := by
    rw [← ha, ← hys]
    exact l.answer_answered (actWrites ys) 0
  rw [i2cWrite_busError b (l.ran ys p) hh hanswer] at hrun
  exact ⟨ys, p, b, zs, hxs, hys, hrun⟩

/-- Where a write never completes and all before it answer Ok, the run waits there. -/
theorem runActs_never {xs : List (LcdPc × LcdAct)} {k : Nat} (h : k < actWrites xs) {l : Lcd}
    (hh : l.busHung = false) (hok : l.allOk k) (ha : l.answer k = .never) :
    ∃ ys p b zs, xs = ys ++ (p, .write b) :: zs ∧ actWrites ys = k ∧
      runActs xs l = (.waiting, { (l.ran ys p).answered 1 with busHung := true }) := by
  obtain ⟨ys, p, b, zs, hxs, hys, hrun⟩ := runActs_to_write h hh hok
  have hanswer : (l.ran ys p).answer 0 = .never := by
    rw [← ha, ← hys]
    exact l.answer_answered (actWrites ys) 0
  rw [i2cWrite_never b (l.ran ys p) hh hanswer] at hrun
  exact ⟨ys, p, b, zs, hxs, hys, hrun⟩

/-! The steps of the handshake. -/

@[simp] theorem actWrites_pulseActs (cfg : Config) (site : Fin 4 → LcdPc) (payload flags : Byte) :
    actWrites (pulseActs cfg site payload flags) = 2 := rfl

theorem actWrites_initPulses (cfg : Config) (k : Nat) (bs : List Byte) :
    actWrites (initPulses cfg k bs) = 2 * bs.length := by
  induction bs generalizing k with
  | nil => rfl
  | cons b bs ih =>
    rw [initPulses, actWrites_append, actWrites_pulseActs, ih, List.length_cons]
    omega

theorem actWrites_initActs (cfg : Config) : actWrites (initActs cfg) = 2 * cfg.nFs8 + 2 := by
  rw [initActs, actWrites_wait, actWrites_initPulses, handshakeCommands_length]
  omega

theorem initPulses_pos (cfg : Config) (k : Nat) (bs : List Byte) : ∀ x ∈ initPulses cfg k bs, ∃ i, x.1 = .init i := by
  induction bs generalizing k with
  | nil => nofun
  | cons b bs ih =>
    intro x hx
    obtain hx | hx := List.mem_append.mp hx
    · obtain ⟨q, -, rfl⟩ := List.mem_map.mp hx
      exact ⟨_, rfl⟩
    · exact ih (k + 1) x hx

/-- Every position of the handshake's steps is one of INIT(i) (10_state.md R22). -/
theorem initActs_pos (cfg : Config) : ∀ x ∈ initActs cfg, ∃ i, x.1 = .init i := by
  intro x hx
  obtain rfl | hx := List.mem_cons.mp hx
  · exact ⟨0, rfl⟩
  · exact initPulses_pos cfg 0 _ x hx

section TryNew
variable {cfg : Config} {l : Lcd} {k : Nat} (a : Addr) (hs : l.state = .uninit) (hh : l.busHung = false)
include hs hh

theorem tryNew_allOk (hok : l.allOk (2 * cfg.nFs8 + 2)) : ∃ p,
    tryNew cfg a l = initReturn (Lcd.ran (initActs cfg) p { l with addr := a }) := by
  rw [← actWrites_initActs cfg] at hok
  obtain ⟨p, hp⟩ := runActs_allOk (initActs cfg) (l := { l with addr := a }) hh hok
  exact ⟨p, by rw [tryNew, if_pos hs, hp]; rfl⟩

theorem tryNew_busError (hk : k < 2 * cfg.nFs8 + 2) (hok : l.allOk k) (ha : l.answer k = .busError) :
    ∃ ys i b zs, initActs cfg = ys ++ (.init i, .write b) :: zs ∧ actWrites ys = k ∧
      tryNew cfg a l =
        raiseBusError (recordWrite b .busError ((Lcd.ran ys (.init i) { l with addr := a }).answered 1)) := by
  rw [← actWrites_initActs cfg] at hk
  obtain ⟨ys, p, b, zs, hxs, hys, hrun⟩ := runActs_busError hk (l := { l with addr := a }) hh hok ha
  obtain ⟨i, rfl⟩ := initActs_pos cfg (p, .write b) (by simp [hxs])
  exact ⟨ys, i, b, zs, hxs, hys, by rw [tryNew, if_pos hs, hrun]; rfl⟩

theorem tryNew_never (hk : k < 2 * cfg.nFs8 + 2) (hok : l.allOk k) (ha : l.answer k = .never) :
    ∃ ys i b zs, initActs cfg = ys ++ (.init i, .write b) :: zs ∧ actWrites ys = k ∧
      tryNew cfg a l = { (Lcd.ran ys (.init i) { l with addr := a }).answered 1 with busHung := true } := by
  rw [← actWrites_initActs cfg] at hk
  obtain ⟨ys, p, b, zs, hxs, hys, hrun⟩ := runActs_never hk (l := { l with addr := a }) hh hok ha
  obtain ⟨i, rfl⟩ := initActs_pos cfg (p, .write b) (by simp [hxs])
  exact ⟨ys, i, b, zs, hxs, hys, by rw [tryNew, if_pos hs, hrun]; rfl⟩

end TryNew

end Sys2Proof.Machine
end

section
/-! STATUS (10_state.md R24) and the hung transaction (60_exceptions.md R133). -/

namespace Sys2Proof.Machine

theorem status_eq (s : State) :
    s.status = BitVec.ofBool (decide (s.lcd.state = .failed)) ++ BitVec.ofBool (decide (s.lcd.state = .ready))
      ++ BitVec.ofBool (!decide (s.lcd.pc = .idle)) ++ BitVec.ofBool (!decide (s.kp.pc = .idle)) := rfl

theorem getLsbD_four_bits : ∀ w x y z : Bool,
    (BitVec.ofBool w ++ BitVec.ofBool x ++ BitVec.ofBool y ++ BitVec.ofBool z).getLsbD 0 = z ∧
    (BitVec.ofBool w ++ BitVec.ofBool x ++ BitVec.ofBool y ++ BitVec.ofBool z).getLsbD 1 = y ∧
    (BitVec.ofBool w ++ BitVec.ofBool x ++ BitVec.ofBool y ++ BitVec.ofBool z).getLsbD 2 = x ∧
    (BitVec.ofBool w ++ BitVec.ofBool x ++ BitVec.ofBool y ++ BitVec.ofBool z).getLsbD 3 = w := by
  decide

theorem status_bits (s : State) :
    s.status.getLsbD 0 = !decide (s.kp.pc = .idle) ∧ s.status.getLsbD 1 = !decide (s.lcd.pc = .idle) ∧
      s.status.getLsbD 2 = decide (s.lcd.state = .ready) ∧ s.status.getLsbD 3 = decide (s.lcd.state = .failed) :=
  getLsbD_four_bits _ _ _ _

/-- The three LCD bits of STATUS depend on LCD alone. -/
theorem status_lcd_bits {s t : State} (h : s.lcd = t.lcd) : s.status &&& 0b1110 = t.status &&& 0b1110 := by
  have hmask : ∀ w x y z z' : Bool,
      (BitVec.ofBool w ++ BitVec.ofBool x ++ BitVec.ofBool y ++ BitVec.ofBool z) &&& 0b1110#4 =
        (BitVec.ofBool w ++ BitVec.ofBool x ++ BitVec.ofBool y ++ BitVec.ofBool z') &&& 0b1110#4 := by decide
  rw [status_eq, status_eq, h]
  exact hmask _ _ _ _ _

/-- No turn but reset changes an LCD that waits for a transaction that never completes. -/
theorem Lcd.after_of_hung (cfg : Config) {t : Turn} {l : Lcd} (ht : t ≠ .rst) (hpc : l.pc ≠ .idle)
    (h : l.busHung = true) : l.after cfg t = l := by
  cases t with
  | kp => rfl
  | kpEvent => rfl
  | lcd => exact (if_neg hpc).trans (lcdAdvance_hung h)
  | lcdEvent => exact (lcdEvent_busy hpc).trans (lcdAdvance_hung h)
  | rst => exact absurd rfl ht

theorem run_succ {s t : State} (n : Nat) (h : step s = .next t) : run (n + 1) s = run n t := by
  have hcore : Sys2Proof.core.step s = .next t := h
  simp only [run, Host.Core.run, hcore]
  rfl

/-- Through any turns but reset a hung LCD stays as it is. -/
theorem run_of_hung (ts : List Turn) {s u : State} (hts : s.turns = ts) (hrst : Turn.rst ∉ ts) (hpc : s.lcd.pc ≠ .idle)
    (h : s.lcd.busHung = true) (hrun : run ts.length s = .next u) : u.lcd = s.lcd := by
  induction ts generalizing s with
  | nil => cases hrun; rfl
  | cons t ts ih =>
    have ht : t ≠ .rst := fun e => hrst (by simp [e])
    obtain ⟨s', hstep, hlcd, hturns⟩ : ∃ s', step s = .next s' ∧ s'.lcd = s.lcd ∧ s'.turns = ts := by
      refine ⟨_, step_eq s, ?_, ?_⟩
      · rw [s.turn_of_cons t ts hts]
        exact Lcd.after_of_hung s.cfg ht hpc h
      · rw [s.pastTurn_of_cons t ts hts]
    rw [List.length_cons, run_succ _ hstep] at hrun
    exact (ih hturns (fun e => hrst (List.mem_cons_of_mem t e)) (hlcd ▸ hpc) (hlcd ▸ h) hrun).trans hlcd

/-- Settles O46: the bits are those of `State.status`; the handshake runs to its end or to its first write that does not
answer Ok, and a hung LCD stays as it is. -/
theorem statusTellsHowTheHandshakeEnded : Obligations.StatusTellsHowTheHandshakeEnded := by
  unfold Obligations.StatusTellsHowTheHandshakeEnded
  refine ⟨fun s => ?bits, fun s t a hkp hlcd hs hh hexec => ?handshake⟩
  case bits =>
    obtain ⟨h0, h1, h2, h3⟩ := status_bits s
    rw [h0, h1, h2, h3]
    simp
  case handshake =>
    have ht : t = { s with lcd := tryNew s.cfg a s.lcd } := by
      cases hexec
      simp [hlcd]
    have hlcd' : t.lcd = tryNew s.cfg a s.lcd := by rw [ht]
    have hkp' : t.kp.pc = .idle := by rw [ht]; exact hkp
    refine ⟨fun hok => ?ok, fun k hk hok => ⟨fun ha => ?failed, fun ha => ?never⟩⟩
    case ok =>
      obtain ⟨p, hp⟩ := tryNew_allOk a hs hh hok
      have hst : t.lcd.state = .ready := by rw [hlcd', hp]; rfl
      have hpc : t.lcd.pc = .idle := by rw [hlcd', hp]; rfl
      simp [status_eq, hkp', hst, hpc]
    case failed =>
      obtain ⟨ys, i, b, zs, -, -, hp⟩ := tryNew_busError a hs hh hk hok ha
      have hst : t.lcd.state = .failed := by rw [hlcd', hp]; rfl
      have hpc : t.lcd.pc = .idle := by rw [hlcd', hp]; rfl
      simp [status_eq, hkp', hst, hpc]
    case never =>
      obtain ⟨ys, i, b, zs, -, -, hp⟩ := tryNew_never a hs hh hk hok ha
      rw [hp] at hlcd'
      have hst : t.lcd.state = .uninit := by rw [hlcd']; exact hs
      have hpc : t.lcd.pc = .init i := by rw [hlcd']; rfl
      have hhung : t.lcd.busHung = true := by rw [hlcd']
      have hstatus : t.status = 0b0010 := by
        simp [status_eq, hkp', hst, hpc]
      refine ⟨hstatus, fun ts u hrst hrun => ?_⟩
      have hu : u.lcd = t.lcd := run_of_hung ts (s := { t with turns := ts }) rfl hrst (by simp [hpc]) hhung hrun
      exact ⟨hu, by rw [status_lcd_bits hu, hstatus]; rfl⟩

end Sys2Proof.Machine
end

section
/-! Turns of a schedule written out: the two agents in either order (20_memory.md R44), and an LCD operation event by
event (20_memory.md R42, 10_state.md R22). -/

namespace Sys2Proof.Machine

/-- A step whose turn stands in the schedule. -/
theorem step_of_turns {s : State} {t : Turn} {ts : List Turn} (h : s.turns = t :: ts) :
    step s = .next { s with kp := s.kp.after t, lcd := s.lcd.after s.cfg t, turns := ts } := by
  rw [step_eq, s.turn_of_cons t ts h, s.pastTurn_of_cons t ts h]

theorem run_one (s : State) : run 1 s = step s := by
  rw [step_eq s]
  exact run_succ 0 (step_eq s)

/-- Settles O41: a KP turn leaves LCD alone and an LCD turn KP, and neither writes the parameters. -/
theorem turnsOfTheAgentsCommute : Obligations.TurnsOfTheAgentsCommute := by
  unfold Obligations.TurnsOfTheAgentsCommute
  intro s a b ts ha hb
  have hlcd : ∀ l : Lcd, l.after s.cfg a = l := by
    obtain rfl | rfl := ha <;> exact fun _ => rfl
  have hkp : ∀ k : Kp, k.after b = k := by
    obtain rfl | rfl := hb <;> exact fun _ => rfl
  rw [run_succ 1 (step_of_turns rfl), run_succ 1 (step_of_turns rfl), run_one, run_one, step_of_turns rfl,
    step_of_turns rfl]
  simp only [hlcd, hkp]

/-- Event turns of LCD are events of LCD one after another, and nothing else. -/
theorem run_lcdEvents (n : Nat) (s : State) (ts : List Turn) :
    run n { s with turns := List.replicate n .lcdEvent ++ ts } =
      .next { s with lcd := (lcdEvent s.cfg)^[n] s.lcd, turns := ts } := by
  induction n generalizing s with
  | zero => rfl
  | succ n ih =>
    rw [List.replicate_succ, List.cons_append, run_succ n (step_of_turns rfl)]
    exact ih { s with lcd := lcdEvent s.cfg s.lcd }

/-- Advances of the sequencer are as many events, or fewer where the operation ends before: an idle sequencer would
accept the next command. -/
theorem lcdAdvance_iterate_eq_lcdEvent (cfg : Config) (n : Nat) (l : Lcd) :
    ∃ m ≤ n, (lcdAdvance cfg)^[n] l = (lcdEvent cfg)^[m] l := by
  induction n generalizing l with
  | zero => exact ⟨0, le_rfl, rfl⟩
  | succ n ih =>
    by_cases hpc : l.pc = .idle
    · exact ⟨0, Nat.zero_le _, Function.iterate_fixed (lcdAdvance_idle hpc) _⟩
    · obtain ⟨m, hm, heq⟩ := ih (lcdAdvance cfg l)
      refine ⟨m + 1, Nat.succ_le_succ hm, ?_⟩
      rw [Function.iterate_succ_apply, Function.iterate_succ_apply, heq, lcdEvent_busy hpc]

theorem initPulses_length (cfg : Config) (k : Nat) (bs : List Byte) : (initPulses cfg k bs).length = 4 * bs.length := by
  induction bs generalizing k with
  | nil => rfl
  | cons b bs ih =>
    rw [initPulses, List.length_append, ih, List.length_cons]
    exact (Nat.add_comm _ _).trans rfl

theorem initActs_length (cfg : Config) : (initActs cfg).length = 4 * cfg.nFs8 + 5 := by
  rw [initActs, List.length_cons, initPulses_length, handshakeCommands_length]
  omega

theorem textActs_length (cfg : Config) (j : Nat) (text : List Byte) : (textActs cfg j text).length = 8 * text.length := by
  induction text generalizing j with
  | nil => rfl
  | cons c cs ih =>
    rw [textActs, List.length_append, ih, List.length_cons]
    exact (Nat.add_comm _ _).trans rfl

section Whole
variable (cfg : Config) {l : Lcd} (hh : l.busHung = false)
include hh

/-- LCD.TRY_NEW run whole is events of LCD from its acceptance, at most one for each step of the handshake. -/
theorem tryNew_eq_events (a : Addr) :
    ∃ m ≤ 4 * cfg.nFs8 + 5, tryNew cfg a l = (lcdEvent cfg)^[m] (beginTryNew a l) := by
  unfold tryNew beginTryNew
  by_cases hs : l.state = .uninit
  · rw [if_pos hs, if_pos hs, ← initActs_length,
      whenDone_runActs_eq_iterate sequenced_initActs (l := { l with addr := a }) hh rfl]
    exact lcdAdvance_iterate_eq_lcdEvent cfg _ _
  · rw [if_neg hs, if_neg hs]
    exact ⟨0, Nat.zero_le _, rfl⟩

/-- LCD.WRITE_TEXT run whole is events of LCD from its acceptance, at most eight a character. -/
theorem writeText_eq_events (text : List Byte) :
    ∃ m ≤ 8 * text.length, writeText cfg text l = (lcdEvent cfg)^[m] (beginWriteText text l) := by
  unfold writeText beginWriteText
  by_cases hs : l.state = .ready
  · rw [if_pos hs, if_pos hs, ← textActs_length cfg 0,
      whenDone_runActs_eq_iterate (sequenced_textActs 0 text rfl) (l := { l with text := text }) hh rfl]
    cases text with
    | nil => exact ⟨0, le_rfl, rfl⟩
    | cons c cs => exact lcdAdvance_iterate_eq_lcdEvent cfg _ _
  · rw [if_neg hs, if_neg hs]
    exact ⟨0, Nat.zero_le _, rfl⟩

/-- The turn of a whole operation is that many events, the acceptance of the command the first. -/
theorem Lcd.served_eq_events {i : Instr} {rest : List Byte} (hpc : l.pc = .idle)
    (hd : decodeLcd cfg l.port = .instr i rest) :
    ∃ m, l.served cfg = (lcdEvent cfg)^[m + 1] l ∧ (∀ a, i = .lcdTryNew a → m ≤ 4 * cfg.nFs8 + 5) ∧
      ∀ text, i = .lcdWriteText text → m ≤ 8 * text.length := by
  have hevent : lcdEvent cfg l = lcdAccept cfg l := if_pos hpc
  simp only [Function.iterate_succ_apply, hevent, lcdAccept, Lcd.served, if_pos hpc, hd]
  obtain ⟨a, rfl⟩ | ⟨text, rfl⟩ := decodeLcd_eq_instr hd
  · obtain ⟨m, hm, heq⟩ := tryNew_eq_events cfg (l := { l with port := rest }) hh a
    exact ⟨m, heq, fun _ _ => hm, nofun⟩
  · obtain ⟨m, hm, heq⟩ := writeText_eq_events cfg (l := { l with port := rest }) hh text
    exact ⟨m, heq, nofun, fun _ h => by cases h; exact hm⟩

end Whole

/-- Settles O33: the whole turn is the events of its acceptance and of its steps, up to the one that ends it. -/
theorem wholeLcdOperationEqualsItsSteps : Obligations.WholeLcdOperationEqualsItsSteps := by
  unfold Obligations.WholeLcdOperationEqualsItsSteps
  intro s i rest ts hpc hh hd
  obtain ⟨m, heq, hinit, htext⟩ := Lcd.served_eq_events s.cfg hh hpc hd
  refine ⟨m + 1, ?_, fun a ha => Nat.succ_le_succ (hinit a ha), fun text ht => Nat.succ_le_succ (htext text ht)⟩
  rw [run_lcdEvents, step_of_turns rfl, ← heq]
  rfl

end Sys2Proof.Machine
end

section
/-! The forms that are no host command: the bus byte forms, the pulse and the character (20_memory.md R36, R42,
41_nibble_writer.md R90, R91, 60_exceptions.md R121, R133). -/

namespace Sys2Proof.Machine

/-- Settles O26: a hung transaction lets neither a bus write nor a list of steps begin. -/
theorem nothingBeginsWhileATransactionHangs : Obligations.NothingBeginsWhileATransactionHangs := by
  unfold Obligations.NothingBeginsWhileATransactionHangs
  intro s x y hh
  have hwrite : ∀ b, { s with lcd := (i2cWrite b s.lcd).2 } = s := fun b => by rw [i2cWrite_hung b s.lcd hh]
  have hacts : ∀ z zs, { s with lcd := (runActs (z :: zs) s.lcd).2 } = s := fun z zs => by rw [runActs_hung hh]
  exact ⟨congrArg _ (hwrite _), congrArg _ (hwrite _), congrArg _ (hwrite _), congrArg _ (hacts _ _),
    congrArg _ (hacts _ _)⟩

/-! Lists of steps in which every bus write is followed by its own delay. -/

/-- Every write is followed by a delay, and there is no other delay (41_nibble_writer.md R90). -/
def Paced : List (LcdPc × LcdAct) → Prop
  | [] => True
  | (_, .write _) :: (_, .wait _) :: rest => Paced rest
  | _ => False

theorem paced_pulseActs (cfg : Config) (site : Fin 4 → LcdPc) (payload flags : Byte) :
    Paced (pulseActs cfg site payload flags) := trivial

theorem paced_charActs (cfg : Config) (site : Half → Fin 4 → LcdPc) (c : Byte) : Paced (charActs cfg site c) := trivial

/-- The steps before a write are two for each write among them. -/
theorem Paced.length_eq {ys zs : List (LcdPc × LcdAct)} {p : LcdPc} {b : Byte}
    (h : Paced (ys ++ (p, .write b) :: zs)) : ys.length = 2 * actWrites ys := by
  match ys, h with
  | [], _ => rfl
  | [(_, .write _)], h => exact h.elim
  | (_, .write _) :: (_, .wait _) :: ys, h =>
    have ih := Paced.length_eq (ys := ys) h
    rw [actWrites_write, actWrites_wait, List.length_cons, List.length_cons, ih]
    rfl

/-- Up to write number `k` the events are the first `2 * k` of the list. -/
theorem Paced.actEvents_eq {xs ys zs : List (LcdPc × LcdAct)} {p : LcdPc} {b : Byte} (h : Paced xs)
    (hxs : xs = ys ++ (p, .write b) :: zs) (a : Addr) :
    actEvents a ys = (actEvents a xs).take (2 * actWrites ys) := by
  subst hxs
  have hlen : (actEvents a ys).length = 2 * actWrites ys := (List.length_map _).trans h.length_eq
  rw [← hlen, actEvents, actEvents, List.map_append, List.take_left]

/-- A write that never completes leaves the agent waiting with the events before it done. -/
theorem runActs_never_of_paced {xs : List (LcdPc × LcdAct)} (hx : Paced xs) {k : Nat} (h : k < actWrites xs) {l : Lcd}
    (hh : l.busHung = false) (hok : l.allOk k) (ha : l.answer k = .never) :
    ∃ p, (runActs xs l).2 =
      { l.answered (k + 1) with
        busHung := true
        events := l.events ++ (actEvents l.addr xs).take (2 * k)
        pc := p } := by
  obtain ⟨ys, p, b, zs, hxs, rfl, hrun⟩ := runActs_never h hh hok ha
  refine ⟨p, ?_⟩
  rw [hrun, ← hx.actEvents_eq hxs, ← Lcd.answered_answered]
  rfl

/-! What the forms do, in terms of the bus write and of lists of steps. -/

theorem actEvents_pulseActs (cfg : Config) (site : Fin 4 → LcdPc) (payload flags : Byte) (a : Addr) :
    actEvents a (pulseActs cfg site payload flags) = pulseEvents cfg a payload flags := rfl

theorem actEvents_charActs (cfg : Config) (site : Half → Fin 4 → LcdPc) (c : Byte) (a : Addr) :
    actEvents a (charActs cfg site c) = charEvents cfg a c := rfl

theorem actWrites_charActs (cfg : Config) (site : Half → Fin 4 → LcdPc) (c : Byte) :
    actWrites (charActs cfg site c) = 4 := rfl

/-- A bus byte form is the one write of its byte. -/
theorem exec_busForm {s : State} {i : Instr} {x b : Byte}
    (h : i = .busAssertCmd x ∧ b = x ||| (s.cfg.displayOn ||| s.cfg.backlightOn) ∨
      i = .busAssertChar x ∧ b = x ||| (s.cfg.displayOn ||| s.cfg.backlightOn ||| s.cfg.textFlags) ∨
      i = .busRelease ∧ b = s.cfg.backlightOn) :
    exec i s = .next { s with lcd := (i2cWrite b s.lcd).2 } := by
  obtain ⟨rfl, rfl⟩ | ⟨rfl, rfl⟩ | ⟨rfl, rfl⟩ := h <;> rfl

/-- Inside an operation the exception fails a handshake and leaves the lifecycle alone in a text. -/
theorem stateAfterError_eq {l : Lcd} {st : LcdState}
    (h : (∃ n, l.pc = .init n) ∧ st = .failed ∨ (∃ j h q, l.pc = .text j h q) ∧ st = l.state) :
    stateAfterError l = st := by
  obtain ⟨⟨n, hpc⟩, rfl⟩ | ⟨⟨j, half, q, hpc⟩, rfl⟩ := h
  · rw [stateAfterError, hpc]
  · rw [stateAfterError, hpc]

/-- Settles O25: a bus byte form is one bus write, and a pulse and a character are paced lists of steps. -/
theorem busWritesMayFailOrNeverComplete : Obligations.BusWritesMayFailOrNeverComplete := by
  unfold Obligations.BusWritesMayFailOrNeverComplete
  refine ⟨?byteForm, ?pulse, ?character⟩
  case byteForm =>
    intro s i x b st hh hform hpc
    rw [exec_busForm hform]
    refine ⟨fun ha => ?_, fun ha => ?_⟩
    · rw [i2cWrite_never b s.lcd hh ha]
    · rw [i2cWrite_busError b s.lcd hh ha, ← stateAfterError_eq hpc]
      rfl
  case pulse =>
    intro s payload flags k hh hk hok ha
    rw [← actWrites_pulseActs s.cfg s.lcd.pc.pulseSite payload flags] at hk
    obtain ⟨p, hp⟩ := runActs_never_of_paced (paced_pulseActs ..) hk hh hok ha
    rw [actEvents_pulseActs] at hp
    exact ⟨p, by rw [← hp]; rfl⟩
  case character =>
    intro s c k hh hk hok ha
    rw [← actWrites_charActs s.cfg s.lcd.pc.charSite c] at hk
    obtain ⟨p, hp⟩ := runActs_never_of_paced (paced_charActs ..) hk hh hok ha
    rw [actEvents_charActs] at hp
    exact ⟨p, by rw [← hp]; rfl⟩

end Sys2Proof.Machine
end

section
/-! The far side of the bus: what a whole operation latches, and what a failure or a reset makes unknown
(20_memory.md R48, R49, 70_reset_and_hazards.md R141, R144). -/

namespace Sys2Proof.Machine

/-! The control bits of well-formed parameters (30_encoding.md R55, R58). -/

theorem Config.wf_controlBits {cfg : Config} (h : cfg.wf = true) :
    isControlBit cfg.displayOn = true ∧ isControlBit cfg.backlightOn = true ∧ cfg.displayOn ≠ cfg.backlightOn := by
  simp only [Config.wf, Bool.and_eq_true, bne_iff_ne] at h
  tauto

theorem Config.wf_textFlags {cfg : Config} (h : cfg.wf = true) : cfg.textFlags &&& 0xF0 = 0 := by
  simp only [Config.wf, Bool.and_eq_true, beq_iff_eq] at h
  tauto

theorem isControlBit_iff {b : Byte} : isControlBit b = true ↔ b = 0x01 ∨ b = 0x02 ∨ b = 0x04 ∨ b = 0x08 := by
  simp only [isControlBit, Bool.or_eq_true, beq_iff_eq, or_assoc]

/-- A control bit stands in bits 3:0 and is not zero. -/
theorem controlBit_low {b : Byte} (h : isControlBit b = true) : b &&& 0xF0 = 0 ∧ b ≠ 0 := by
  obtain rfl | rfl | rfl | rfl := isControlBit_iff.mp h <;> decide

/-- Two different control bits have no bit in common. -/
theorem controlBits_disjoint {b b' : Byte} (h : isControlBit b = true) (h' : isControlBit b' = true) (hne : b ≠ b') :
    b' &&& b = 0 := by
  revert hne
  obtain rfl | rfl | rfl | rfl := isControlBit_iff.mp h <;> obtain rfl | rfl | rfl | rfl := isControlBit_iff.mp h' <;>
    decide

theorem or_and_high_eq_zero {x y : Byte} (hx : x &&& 0xF0 = 0) (hy : y &&& 0xF0 = 0) : (x ||| y) &&& 0xF0 = 0 := by
  rw [BitVec.and_comm, BitVec.and_or_distrib_left, BitVec.and_comm, hx, BitVec.and_comm, hy]
  rfl

theorem cmdFlags_low {cfg : Config} (h : cfg.wf = true) : cmdFlags cfg &&& 0xF0 = 0 := by
  obtain ⟨hd, hb, -⟩ := Config.wf_controlBits h
  exact or_and_high_eq_zero (controlBit_low hd).1 (controlBit_low hb).1

theorem charFlags_low {cfg : Config} (h : cfg.wf = true) : charFlags cfg &&& 0xF0 = 0 :=
  or_and_high_eq_zero (cmdFlags_low h) (Config.wf_textFlags h)

theorem enableHigh_of_hasControlBits {cfg : Config} (h : cfg.wf = true) {b : Byte} (hb : HasControlBits cfg b) :
    enableHigh cfg b = true := by
  obtain ⟨hd, -, -⟩ := Config.wf_controlBits h
  rw [enableHigh, hb.1]
  exact bne_iff_ne.mpr (controlBit_low hd).2

theorem enableHigh_release {cfg : Config} (h : cfg.wf = true) : enableHigh cfg cfg.backlightOn = false := by
  obtain ⟨hd, hb, hne⟩ := Config.wf_controlBits h
  rw [enableHigh, controlBits_disjoint hd hb hne]
  rfl

/-! What is latched of a byte on the pins. -/

/-- The nibble of a byte on the pins and its low control bits (20_memory.md R48). -/
def pinNibbles (b : Byte) : Nibble × Nibble := (b.extractLsb' 4 4, b.extractLsb' 0 4)

theorem high_eq_zero_of_low : ∀ {b : Byte}, b &&& 0xF0 = 0 → b.extractLsb' 4 4 = 0#4 := by
  decide

theorem pinNibbles_or_flags (x : Byte) {flags : Byte} (h : flags &&& 0xF0 = 0) :
    pinNibbles (x ||| flags) = (x.extractLsb' 4 4, (x ||| flags).extractLsb' 0 4) := by
  rw [pinNibbles, BitVec.extractLsb'_or, high_eq_zero_of_low h, BitVec.or_zero]

theorem pinNibbles_command {cfg : Config} (h : cfg.wf = true) (payload : Byte) :
    pinNibbles (payload ||| cmdFlags cfg) = commandNibble cfg payload :=
  pinNibbles_or_flags payload (cmdFlags_low h)

/-- The nibble bytes of a character hold its code, four bits each, and no control bit (30_encoding.md R57). -/
theorem nibble_bytes (c : Byte) :
    (hiNibble c).extractLsb' 4 4 = c.extractLsb' 4 4 ∧ (hiNibble c).extractLsb' 0 4 = 0#4 ∧
      (loNibble c).extractLsb' 4 4 = c.extractLsb' 0 4 ∧ (loNibble c).extractLsb' 0 4 = 0#4 := by
  revert c
  decide

theorem pinNibbles_hiNibble (c : Byte) {flags : Byte} (h : flags &&& 0xF0 = 0) :
    pinNibbles (hiNibble c ||| flags) = (c.extractLsb' 4 4, flags.extractLsb' 0 4) := by
  obtain ⟨hhi, hlow, -, -⟩ := nibble_bytes c
  rw [pinNibbles_or_flags _ h, BitVec.extractLsb'_or, hhi, hlow, BitVec.zero_or]

theorem pinNibbles_loNibble (c : Byte) {flags : Byte} (h : flags &&& 0xF0 = 0) :
    pinNibbles (loNibble c ||| flags) = (c.extractLsb' 0 4, flags.extractLsb' 0 4) := by
  obtain ⟨-, -, hlo, hlow⟩ := nibble_bytes c
  rw [pinNibbles_or_flags _ h, BitVec.extractLsb'_or, hlo, hlow, BitVec.zero_or]

/-! Pulses seen from the far side. -/

theorem farStep_enableHigh {cfg : Config} {b : Byte} (h : enableHigh cfg b = true) (f : FarSide) (a : Addr) :
    farStep cfg f (.busWrite a b .ok) = { f with pins := some b } := by
  simp [farStep, h]

theorem farStep_fall {cfg : Config} {b p : Byte} (h : enableHigh cfg b = false) (hp : enableHigh cfg p = true)
    (latched : Option (List (Nibble × Nibble))) (a : Addr) :
    farStep cfg { pins := some p, latched := latched } (.busWrite a b .ok) =
      { pins := some b, latched := latched.map (· ++ [pinNibbles p]) } := by
  simp [farStep, h, hp, pinNibbles]

section Pulses
variable {cfg : Config} (hwf : cfg.wf = true) {flags : Byte} (hflags : HasControlBits cfg flags) (a : Addr)
include hwf hflags

/-- A pulse that completes latches its ASSERT byte and leaves RELEASE on the pins. -/
theorem farFrom_pulseEvents (f : FarSide) (payload : Byte) :
    farFrom cfg f (pulseEvents cfg a payload flags) =
      { pins := some cfg.backlightOn, latched := f.latched.map (· ++ [pinNibbles (payload ||| flags)]) } := by
  have hassert := enableHigh_of_hasControlBits hwf hflags.or_right (b := payload ||| flags)
  calc farFrom cfg f (pulseEvents cfg a payload flags)
      = farStep cfg (farStep cfg f (.busWrite a (payload ||| flags) .ok)) (.busWrite a cfg.backlightOn .ok) := rfl
    _ = _ := by rw [farStep_enableHigh hassert, farStep_fall (enableHigh_release hwf) hassert]

/-- Pulses that complete latch their ASSERT bytes in order. -/
theorem farFrom_pulses (f : FarSide) (bs : List Byte) :
    farFrom cfg f (bs.flatMap fun b => pulseEvents cfg a b flags) =
      { pins := if bs = [] then f.pins else some cfg.backlightOn
        latched := f.latched.map (· ++ bs.map fun b => pinNibbles (b ||| flags)) } := by
  induction bs generalizing f with
  | nil => simp [farFrom]
  | cons b bs ih =>
    rw [List.flatMap_cons, farFrom_append, farFrom_pulseEvents hwf hflags, ih]
    simp [Function.comp_def]

end Pulses

/-! The steps of the two operations. -/

theorem actEvents_append (a : Addr) (xs ys : List (LcdPc × LcdAct)) :
    actEvents a (xs ++ ys) = actEvents a xs ++ actEvents a ys := List.map_append

theorem actEvents_initPulses (cfg : Config) (a : Addr) (k : Nat) (bs : List Byte) :
    actEvents a (initPulses cfg k bs) = bs.flatMap fun b => pulseEvents cfg a b (cmdFlags cfg) := by
  induction bs generalizing k with
  | nil => rfl
  | cons b bs ih =>
    rw [initPulses, actEvents_append, actEvents_pulseActs, ih]
    rfl

theorem actEvents_initActs (cfg : Config) (a : Addr) :
    actEvents a (initActs cfg) =
      .delay 80 :: (handshakeCommands cfg).flatMap fun b => pulseEvents cfg a b (cmdFlags cfg) := by
  rw [← actEvents_initPulses cfg a 0]
  rfl

theorem actEvents_textActs (cfg : Config) (a : Addr) (j : Nat) (text : List Byte) :
    actEvents a (textActs cfg j text) = textEvents cfg a text := by
  induction text generalizing j with
  | nil => rfl
  | cons c cs ih =>
    rw [textActs, actEvents_append, actEvents_charActs, ih]
    rfl

theorem actWrites_textActs (cfg : Config) (j : Nat) (text : List Byte) :
    actWrites (textActs cfg j text) = 4 * text.length := by
  induction text generalizing j with
  | nil => rfl
  | cons c cs ih =>
    rw [textActs, actWrites_append, actWrites_charActs, ih, List.length_cons]
    omega

theorem writeText_allOk {cfg : Config} {l : Lcd} {text : List Byte} (hs : l.state = .ready) (hh : l.busHung = false)
    (hok : l.allOk (4 * text.length)) : ∃ p,
    writeText cfg text l = lcdReturn .ok (Lcd.ran (textActs cfg 0 text) p { l with text := text }) := by
  rw [← actWrites_textActs cfg 0] at hok
  obtain ⟨p, hp⟩ := runActs_allOk (textActs cfg 0 text) (l := { l with text := text }) hh hok
  exact ⟨p, by rw [writeText, if_pos hs, hp]; rfl⟩

/-- The payloads of a text's pulses. -/
def textPayloads (text : List Byte) : List Byte := text.flatMap fun c => [hiNibble c, loNibble c]

theorem textEvents_eq_pulses (cfg : Config) (a : Addr) (text : List Byte) :
    textEvents cfg a text = (textPayloads text).flatMap fun b => pulseEvents cfg a b (charFlags cfg) := by
  rw [textPayloads, List.flatMap_assoc]
  rfl

theorem textPayloads_eq_nil_iff (text : List Byte) : textPayloads text = [] ↔ text = [] := by
  cases text <;> simp [textPayloads]

theorem map_pinNibbles_textPayloads {cfg : Config} (h : cfg.wf = true) (text : List Byte) :
    ((textPayloads text).map fun b => pinNibbles (b ||| charFlags cfg)) = textNibbles cfg text := by
  rw [textPayloads, List.map_flatMap, textNibbles]
  refine congrArg text.flatMap (funext fun c => ?_)
  rw [List.map_cons, List.map_singleton, pinNibbles_hiNibble c (charFlags_low h),
    pinNibbles_loNibble c (charFlags_low h)]
  rfl

theorem map_pinNibbles_handshake {cfg : Config} (h : cfg.wf = true) :
    ((handshakeCommands cfg).map fun b => pinNibbles (b ||| cmdFlags cfg)) =
      List.replicate cfg.nFs8 (commandNibble cfg cfg.fs8) ++ [commandNibble cfg cfg.fs4] := by
  simp [handshakeCommands, nFs4, pinNibbles_command h]

/-- Steps that completed are seen at the far side after what was seen before. -/
theorem Lcd.farView_ran (cfg : Config) (xs : List (LcdPc × LcdAct)) (p : LcdPc) (l : Lcd) :
    (l.ran xs p).farView cfg = farFrom cfg (l.farView cfg) (actEvents l.addr xs) := farFrom_append ..

/-- Settles O47: a whole operation is its pulses, and each latches its nibble. -/
theorem farSideGetsTheNibblesInOrder : Obligations.FarSideGetsTheNibblesInOrder := by
  unfold Obligations.FarSideGetsTheNibblesInOrder
  refine ⟨fun s a hwf hpc hs hh hok => ?handshake, fun s text hwf hpc hs hh hok => ?text⟩
  case handshake =>
    obtain ⟨p, hp⟩ := tryNew_allOk a hs hh hok
    refine ⟨_, rfl, ?_⟩
    calc Lcd.farView s.cfg (if s.lcd.pc = .idle then tryNew s.cfg a s.lcd else s.lcd)
        = (Lcd.ran (initActs s.cfg) p { s.lcd with addr := a }).farView s.cfg := by rw [if_pos hpc, hp]; rfl
      _ = farFrom s.cfg (s.lcd.farView s.cfg)
            ((handshakeCommands s.cfg).flatMap fun b => pulseEvents s.cfg a b (cmdFlags s.cfg)) := by
          rw [Lcd.farView_ran, actEvents_initActs]; rfl
      _ = _ := by
          rw [farFrom_pulses hwf (hasControlBits_cmdFlags s.cfg), map_pinNibbles_handshake hwf]
          simp [handshakeCommands, nFs4]
  case text =>
    obtain ⟨p, hp⟩ := writeText_allOk hs hh hok
    refine ⟨_, rfl, ?_⟩
    calc Lcd.farView s.cfg (if s.lcd.pc = .idle then writeText s.cfg text s.lcd else s.lcd)
        = (Lcd.ran (textActs s.cfg 0 text) p { s.lcd with text := text }).farView s.cfg := by rw [if_pos hpc, hp]; rfl
      _ = farFrom s.cfg (s.lcd.farView s.cfg)
            ((textPayloads text).flatMap fun b => pulseEvents s.cfg s.lcd.addr b (charFlags s.cfg)) := by
          rw [Lcd.farView_ran, actEvents_textActs, textEvents_eq_pulses]; rfl
      _ = _ := by
          rw [farFrom_pulses hwf (hasControlBits_charFlags s.cfg), map_pinNibbles_textPayloads hwf]
          simp only [textPayloads_eq_nil_iff]

/-! What is latched once unknown, and reset. -/

@[simp] theorem Lcd.did_farBefore (a : LcdAct) (l : Lcd) : (l.did a).farBefore = l.farBefore := by cases a <;> rfl

theorem lcdMoveOn_farBefore (cfg : Config) (l : Lcd) : (lcdMoveOn cfg l).farBefore = l.farBefore := by
  unfold lcdMoveOn
  split
  · rfl
  · split <;> rfl
  · split
    · rfl
    · split
      · rfl
      · split <;> rfl

theorem lcdAdvance_farBefore (cfg : Config) (l : Lcd) : (lcdAdvance cfg l).farBefore = l.farBefore := by
  by_cases hh : l.busHung = true
  · rw [lcdAdvance_hung hh]
  · have hfree : l.busHung = false := by simpa using hh
    by_cases hpc : l.pc = .idle
    · rw [lcdAdvance_idle hpc]
    · cases ha : stepAt cfg l.text l.pc with
      | none => rw [lcdAdvance_noStep hfree hpc ha, lcdReturn_farBefore]
      | some a =>
        obtain hadv | ⟨b, -, hadv⟩ | ⟨b, -, hadv⟩ := lcdAdvance_cases hfree ha
        · rw [hadv, lcdMoveOn_farBefore, Lcd.did_farBefore]
        · rw [hadv]; rfl
        · rw [hadv]; rfl

theorem lcdAccept_farBefore (cfg : Config) (l : Lcd) : (lcdAccept cfg l).farBefore = l.farBefore := by
  obtain ha | ⟨rest, ha⟩ | ⟨rest, -, ha⟩ | ⟨a, rest, -, -, ha⟩ | ⟨text, rest, -, -, ha⟩ := lcdAccept_cases cfg l
  · rw [ha]
  · rw [ha]; rfl
  · rw [ha]; rfl
  · rw [ha]
  · rw [ha]

theorem Lcd.after_farBefore {cfg : Config} {t : Turn} {l : Lcd} (h : t ≠ .rst) :
    (l.after cfg t).farBefore = l.farBefore :=
  Lcd.after_induct_hung (P := fun l' => l'.farBefore = l.farBefore) h rfl (fun _ => lcdAccept_farBefore cfg l)
    (fun l' hl => (lcdAdvance_farBefore cfg l').trans hl) (fun _ _ _ _ _ => rfl) fun _ _ => rfl

/-- Any step but reset is seen at the far side after what was seen before. -/
theorem step_farView {s t : State} (hturn : s.turn ≠ .rst) (h : step s = .next t) :
    ∃ es, t.lcd.farView t.cfg = farFrom s.cfg (s.lcd.farView s.cfg) es := by
  obtain ⟨-, -, ⟨es, hes⟩, -⟩ := historiesOnlyGrow s t hturn h
  have hbefore : t.lcd.farBefore = s.lcd.farBefore := by rw [step_lcd h]; exact Lcd.after_farBefore hturn
  refine ⟨es, ?_⟩
  rw [Lcd.farView, hes, hbefore, step_cfg h, farFrom_append]
  rfl

theorem step_rst_farView {s t : State} (hturn : s.turn = .rst) (h : step s = .next t) :
    t.lcd.farView t.cfg = s.lcd.farAfterRst s.cfg := by
  rw [step_lcd h, step_cfg h, hturn]
  exact Lcd.rst_farView s.cfg s.lcd

/-! What a reset does to the far side, by where it finds LCD. -/

theorem farAfterRst_hung (cfg : Config) {l : Lcd} (h : l.busHung = true) :
    l.farAfterRst cfg = FarSide.unknown := if_pos h

theorem farAfterRst_insidePulse (cfg : Config) {l : Lcd} (h : l.busHung = false) (hp : l.pc.insidePulse = true) :
    l.farAfterRst cfg = { l.farView cfg with latched := none } := by
  simp [Lcd.farAfterRst, h, hp]

theorem farAfterRst_betweenPulses (cfg : Config) {l : Lcd} (h : l.busHung = false) (hp : l.pc.insidePulse = false) :
    l.farAfterRst cfg = l.farView cfg := by
  simp [Lcd.farAfterRst, h, hp]

theorem farAfterRst_latched_none (cfg : Config) {l : Lcd} (h : (l.farView cfg).latched = none) :
    (l.farAfterRst cfg).latched = none := by
  unfold Lcd.farAfterRst
  split
  · rfl
  · split
    · rfl
    · exact h

/-- Settles O48: a failed write leaves all unknown, no event makes the latched nibbles known again, and a reset carries
over what it finds but for an abandoned pulse or write. -/
theorem farSideIsUnknownAfterAFailure : Obligations.FarSideIsUnknownAfterAFailure := by
  unfold Obligations.FarSideIsUnknownAfterAFailure
  refine ⟨?failure, ?steps, ?hung, ?reset⟩
  case failure =>
    intro cfg f es es' a b
    rw [farFrom_append, farFrom_append]
    exact ⟨rfl, farFrom_latched_none cfg FarSide.unknown es' rfl⟩
  case steps =>
    intro s t hstep hnone
    by_cases hturn : s.turn = .rst
    · rw [step_rst_farView hturn hstep]
      exact farAfterRst_latched_none s.cfg hnone
    · obtain ⟨es, hes⟩ := step_farView hturn hstep
      rw [hes]
      exact farFrom_latched_none s.cfg _ es hnone
  case hung =>
    intro s t hturn hstep hh
    rw [step_rst_farView hturn hstep, farAfterRst_hung s.cfg hh]
    rfl
  case reset =>
    intro s t hturn hstep hh
    rw [step_rst_farView hturn hstep]
    refine ⟨?_, fun hinside => ?_, fun hbetween => ?_⟩
    · by_cases hp : s.lcd.pc.insidePulse = true
      · rw [farAfterRst_insidePulse s.cfg hh hp]
      · rw [farAfterRst_betweenPulses s.cfg hh (by simpa using hp)]
    · have hp : s.lcd.pc.insidePulse = true := by
        obtain ⟨i, hpc, hi, hmod⟩ | ⟨j, half, q, hpc, hq⟩ := hinside
        · simp [hpc, LcdPc.insidePulse, hi, hmod]
        · simp [hpc, LcdPc.insidePulse, hq]
      rw [farAfterRst_insidePulse s.cfg hh hp]
    · have hp : s.lcd.pc.insidePulse = false := by
        obtain hpc | ⟨i, hpc, rfl | hmod⟩ | ⟨j, half, hpc⟩ := hbetween
        · rw [hpc]; rfl
        · rw [hpc]; rfl
        · simp [hpc, LcdPc.insidePulse, hmod]
        · rw [hpc]; rfl
      rw [farAfterRst_betweenPulses s.cfg hh hp]

end Sys2Proof.Machine
end

section
/-! One keypad scan on the environment's answers, and the ideal matrix (40_keypad.md R70, R73, 20_memory.md R31, R35). -/

namespace Sys2Proof.Machine

/-- KP in a scan that began at `k`, when `n` cells have been read: the row lines, the grid, the events so far. -/
def Kp.scanning (k : Kp) (n : Nat) (rows : BitVec 4) (g : Grid) (es : List KpEvent) (p : KpPc) : Kp :=
  { k.answered n with rowOut := rows, grid := g, events := k.events ++ es, pc := p }

section Scanning
variable (k : Kp) (n : Nat) (rows : BitVec 4) (g : Grid) (es : List KpEvent) (p : KpPc)

theorem Kp.scanning_none : k.scanning 0 k.rowOut k.grid [] k.pc = k := by
  simp [Kp.scanning]

theorem kpAt_rowHi (r : Fin 4) :
    kpAt (k.scanning n rows g es p) (.rowHi r) =
      k.scanning n (rows ||| rowMask r) g (es ++ [.rowSet r true]) (.rowHi r) := by
  simp [kpAt, kpAct, rowWrite, Kp.scanning]

theorem kpAt_rowLo (r : Fin 4) :
    kpAt (k.scanning n rows g es p) (.rowLo r) =
      k.scanning n (rows &&& ~~~(rowMask r)) g (es ++ [.rowSet r false]) (.rowLo r) := by
  simp [kpAt, kpAct, rowWrite, Kp.scanning]

theorem kpAt_sample (r c : Fin 4) :
    kpAt (k.scanning n rows g es p) (.sample r c) =
      k.scanning (n + 1) rows (g.put r c (k.answer n)) (es ++ [.colSample c (k.answer n)]) (.sample r c) := by
  have hanswer : Kp.answer { k.scanning n rows g es p with pc := .sample r c } 0 = k.answer n := k.answer_answered n 0
  rw [kpAt, kpAct, sampleCell_eq, hanswer, Kp.scanning, Kp.scanning, ← Kp.answered_answered, ← List.append_assoc]
  rfl

end Scanning

/-- The positions of one row of a scan in order (40_keypad.md R70). -/
def rowPositions (r : Fin 4) : List KpPc := .rowHi r :: (indices.map fun c => .sample r c) ++ [.rowLo r]

theorem scanPositions_eq_rows :
    scanPositions = rowPositions 0 ++ rowPositions 1 ++ rowPositions 2 ++ rowPositions 3 := rfl

/-- Row `r` of the grid written cell by cell. -/
def Grid.putRow (g : Grid) (r : Fin 4) (row : Fin 4 → Bool) : Grid := indices.foldl (fun g c => g.put r c (row c)) g

theorem Grid.at_putRow (g : Grid) (r r' c : Fin 4) (row : Fin 4 → Bool) :
    (g.putRow r row).at r' c = if r' = r then row c else g.at r' c := by
  have hput : ∀ (g : Grid) (j : Fin 4) (v : Bool), (g.put r j v).at r' c = if r' = r ∧ c = j then v else g.at r' c := by
    intro g j v
    split
    · next h => rw [h.1, h.2, Grid.at_put_self]
    · next h => exact Grid.at_put_other g r j r' c v (by simpa using h)
  simp only [Grid.putRow, indices, List.foldl, hput]
  by_cases hr : r' = r
  · fin_cases c <;> simp [hr]
  · simp [hr]

/-- The events of one row of a scan that reads `row` (40_keypad.md R70). -/
def rowEvents (r : Fin 4) (row : Fin 4 → Bool) : List KpEvent :=
  .rowSet r true :: (indices.map fun c => .colSample c (row c)) ++ [.rowSet r false]

/-- One row of a scan: its line high, its four cells read, its line low. -/
theorem foldl_rowPositions (k : Kp) (n : Nat) (rows : BitVec 4) (g : Grid) (es : List KpEvent) (p : KpPc) (r : Fin 4) :
    (rowPositions r).foldl kpAt (k.scanning n rows g es p) =
      k.scanning (n + 4) (rows &&& ~~~(rowMask r)) (g.putRow r fun c => k.answer (n + c.val))
        (es ++ rowEvents r fun c => k.answer (n + c.val)) (.rowLo r) := by
  have hlow : (rows ||| rowMask r) &&& ~~~(rowMask r) = rows &&& ~~~(rowMask r) := by
    rw [BitVec.and_comm, BitVec.and_or_distrib_left]
    simp [BitVec.and_comm]
  simp only [rowPositions, indices, List.map, List.cons_append, List.nil_append, List.foldl, kpAt_rowHi, kpAt_sample,
    kpAt_rowLo, hlow, List.append_assoc]
  rfl

/-- The grid of the next scan, cell by cell. -/
theorem at_answeredGrid (k : Kp) (r c : Fin 4) : (answeredGrid k).at r c = k.answer (4 * r.val + c.val) := by
  simp [answeredGrid, Grid.at]

/-- A scan reads the sixteen answers into the grid and leaves the rows low (40_keypad.md R70). -/
theorem kpScan_eq (k : Kp) :
    kpScan k = k.scanning 16 0 (answeredGrid k) (scanEvents (answeredGrid k)) (.rowLo 3) := by
  have hrows : ∀ rows : BitVec 4,
      rows &&& ~~~(rowMask 0) &&& ~~~(rowMask 1) &&& ~~~(rowMask 2) &&& ~~~(rowMask 3) = 0 := by decide
  have hgrid : (((k.grid.putRow 0 fun c => k.answer (0 + c.val)).putRow 1 fun c => k.answer (4 + c.val)).putRow 2
      fun c => k.answer (8 + c.val)).putRow 3 (fun c => k.answer (12 + c.val)) = answeredGrid k := by
    refine Grid.ext_at _ _ fun r c => ?_
    simp only [Grid.at_putRow, at_answeredGrid]
    fin_cases r <;> rfl
  have hevents : scanEvents (answeredGrid k) = ((rowEvents 0 fun c => k.answer (0 + c.val)) ++
      (rowEvents 1 fun c => k.answer (4 + c.val)) ++ (rowEvents 2 fun c => k.answer (8 + c.val)) ++
      rowEvents 3 fun c => k.answer (12 + c.val)) := by
    simp only [scanEvents, at_answeredGrid]
    rfl
  rw [kpScan, scanPositions_eq_rows, List.foldl_append, List.foldl_append, List.foldl_append]
  conv_lhs => rw [← k.scanning_none]
  rw [foldl_rowPositions, foldl_rowPositions, foldl_rowPositions, foldl_rowPositions, hrows, hgrid, hevents]
  rfl

/-! The ideal matrix. -/

theorem idealColumn_rowMask (sw : Grid) (r c : Fin 4) : idealColumn (rowMask r) sw c = sw.at r c := by
  fin_cases r <;> simp [idealColumn, indices, rowMask]

theorem cells_getElem? : ∀ r c : Fin 4, cells[4 * r.val + c.val]? = some (r, c) := by
  decide

/-- While the switches are held the answers of a scan are the switches (20_memory.md R35). -/
theorem answeredGrid_of_ideal {k : Kp} {sw : Grid} {rest : List Bool} (h : k.colAnswers = idealAnswers sw ++ rest) :
    answeredGrid k = sw := by
  refine Grid.ext_at _ _ fun r c => ?_
  have hcell : (idealAnswers sw)[4 * r.val + c.val]? = some (sw.at r c) := by
    rw [idealAnswers, List.getElem?_map, cells_getElem?, Option.map_some, idealColumn_rowMask]
  rw [at_answeredGrid, Kp.answer, h, List.getElem?_append_left (List.getElem?_eq_some_iff.mp hcell).1, hcell]

theorem decodeGrid_pressed : ∀ r c : Fin 4, decodeGrid (pressed [(r, c)]) = some (lutRead r c) := by
  decide

theorem lutRead_injective : ∀ r c r' c' : Fin 4, lutRead r c = lutRead r' c' → r = r' ∧ c = c' := by
  decide

/-- KP.PRESSED_KEY returns a changed candidate. -/
theorem pressedKey_results {k : Kp} (h : decodeGrid (answeredGrid k) ≠ k.lastReportedKey) :
    (pressedKey k).results = k.results ++ [.key (decodeGrid (answeredGrid k))] := by
  rw [pressedKey, kpScan_eq]
  exact congrArg (fun key => k.results ++ [.key key]) (if_neg h)

/-- Settles O15: the scan's answers are the switches held, so the grid is. -/
theorem idealMatrixReportsTheKeyHeld : Obligations.IdealMatrixReportsTheKeyHeld := by
  unfold Obligations.IdealMatrixReportsTheKeyHeld
  refine ⟨?scan, ?report, lutRead_injective⟩
  case scan =>
    intro s sw rest h
    refine ⟨{ s with kp := kpScan s.kp }, rfl, ?_⟩
    rw [kpScan_eq]
    refine ⟨answeredGrid_of_ideal h, ?_⟩
    show s.kp.colAnswers.drop 16 = rest
    rw [h]
    rfl
  case report =>
    intro s r c rest hpc h hnew
    have hkey : decodeGrid (answeredGrid s.kp) = some (lutRead r c) := by
      rw [answeredGrid_of_ideal h, decodeGrid_pressed]
    refine ⟨{ s with kp := pressedKey s.kp }, by simp [exec, execKpPressedKey, hpc], ?_⟩
    rw [← hkey]
    exact pressedKey_results (by rw [hkey]; exact hnew.symm)

end Sys2Proof.Machine
end

section
/-! The encoding: what each decoder reads is exactly the well-formed instructions of its port, from exactly their bytes
(30_encoding.md sections 2 and 4). -/

namespace Sys2Proof.Machine

/-! The two halves of a byte, and the flags in its low half (30_encoding.md R53, R55, R58). -/

theorem and_low_of_high_zero : ∀ {b : Byte}, b &&& 0xF0 = 0 → b &&& 0x0F = b := by
  decide

theorem and_high_of_low_zero : ∀ {b : Byte}, b &&& 0x0F = 0 → b &&& 0xF0 = b := by
  decide

theorem and_high_and_low (b : Byte) : b &&& 0xF0 &&& 0x0F = 0 := by
  rw [BitVec.and_assoc]
  exact BitVec.and_zero

/-- A byte is its two halves. -/
theorem assertByte_halves (b : Byte) : assertByte (b &&& 0xF0) (b &&& 0x0F) = b := by
  rw [assertByte, ← BitVec.and_or_distrib_left]
  exact BitVec.and_allOnes

theorem assertByte_low (payload : Byte) {flags : Byte} (h : flags &&& 0xF0 = 0) :
    assertByte payload flags &&& 0x0F = (payload &&& 0x0F) ||| flags := by
  rw [assertByte, BitVec.and_or_distrib_right, and_low_of_high_zero h]

/-- A nibble and the flags are read back from the byte they make. -/
theorem assertByte_parts {x flags : Byte} (hx : x &&& 0x0F = 0) (h : flags &&& 0xF0 = 0) :
    assertByte x flags &&& 0x0F = flags ∧ assertByte x flags &&& 0xF0 = x := by
  constructor
  · rw [assertByte_low x h, hx]
    exact BitVec.zero_or
  · rw [assertByte, BitVec.and_or_distrib_right, h, and_high_of_low_zero hx]
    exact BitVec.or_zero

/-- An ASSERT byte has the enable bit, which RELEASE has not. -/
theorem ne_releaseByte {cfg : Config} (h : cfg.wf = true) {b : Byte} (hb : HasControlBits cfg b) :
    b ≠ releaseByte cfg := by
  rintro rfl
  exact Bool.false_ne_true ((enableHigh_release h).symm.trans (enableHigh_of_hasControlBits h hb))

theorem Config.wf_textFlags_disjoint {cfg : Config} (h : cfg.wf = true) : cfg.textFlags &&& cmdFlags cfg = 0 := by
  simp only [Config.wf, Bool.and_eq_true, beq_iff_eq] at h
  rw [cmdFlags]
  tauto

theorem Config.wf_textMax {cfg : Config} (h : cfg.wf = true) : cfg.textMax ≤ 255 := by
  simp only [Config.wf, Bool.and_eq_true, decide_eq_true_eq] at h
  tauto

/-- The two ASSERT forms have the same flags exactly if there are no extra character flags (assumption log 11). -/
theorem charFlags_eq_cmdFlags_iff {cfg : Config} (h : cfg.wf = true) :
    charFlags cfg = cmdFlags cfg ↔ cfg.textFlags = 0 := by
  constructor
  · intro heq
    calc cfg.textFlags
        = charFlags cfg &&& cfg.textFlags := (or_and_of_and (.inr BitVec.and_self)).symm
      _ = 0 := by rw [heq, BitVec.and_comm, Config.wf_textFlags_disjoint h]
  · intro hzero
    rw [charFlags, hzero]
    exact BitVec.or_zero

/-! Each decoder. -/

theorem decodeKp_eq_instr_iff {bs rest : List Byte} {i : Instr} :
    decodeKp bs = .instr i rest ↔ i = .kpPressedKey ∧ bs = 0x01 :: rest := by
  constructor
  · intro h
    cases bs with
    | nil => cases h
    | cons b bs =>
      simp only [decodeKp] at h
      split at h
      · next hb => cases h; exact ⟨rfl, by rw [hb]⟩
      · cases h
  · rintro ⟨rfl, rfl⟩
    rfl

/-- A byte with bit 7 clear is a 7-bit address (30_encoding.md R60). -/
theorem setWidth_setWidth_of_bit7 : ∀ {a : Byte}, a.getLsbD 7 = false → (a.setWidth 7).setWidth 8 = a := by
  decide

theorem decodeTryNew_eq_instr_iff {bs rest : List Byte} {i : Instr} :
    decodeTryNew bs = .instr i rest ↔ ∃ a : Addr, i = .lcdTryNew a ∧ bs = a.setWidth 8 :: rest := by
  constructor
  · intro h
    cases bs with
    | nil => cases h
    | cons a bs =>
      simp only [decodeTryNew] at h
      split at h
      · cases h
      · next ha => cases h; exact ⟨_, rfl, by rw [setWidth_setWidth_of_bit7 (by simpa using ha)]⟩
  · rintro ⟨a, rfl, rfl⟩
    simp [decodeTryNew]

theorem decodeWriteText_eq_instr_iff {cfg : Config} (hmax : cfg.textMax ≤ 255) {bs rest : List Byte} {i : Instr} :
    decodeWriteText cfg bs = .instr i rest ↔
      ∃ text, text.length ≤ cfg.textMax ∧ i = .lcdWriteText text ∧
        bs = BitVec.ofNat 8 text.length :: (text ++ rest) := by
  constructor
  · intro h
    cases bs with
    | nil => cases h
    | cons n bs =>
      simp only [decodeWriteText] at h
      split at h
      · cases h
      · next hlong =>
        have hlen : (bs.take n.toNat).length = n.toNat :=
          Nat.le_antisymm (List.length_take_le ..) (Nat.le_of_not_lt hlong)
        split at h
        · next hn =>
          cases h
          exact ⟨_, by rwa [hlen], rfl, by rw [hlen, List.take_append_drop, BitVec.ofNat_toNat, BitVec.setWidth_eq]⟩
        · cases h
  · rintro ⟨text, hlen, rfl, rfl⟩
    have hcount : (BitVec.ofNat 8 text.length).toNat = text.length :=
      (BitVec.toNat_ofNat ..).trans (Nat.mod_eq_of_lt (by omega))
    simp [decodeWriteText, hcount, hlen]

theorem decodeLcd_eq_instr_iff {cfg : Config} (hmax : cfg.textMax ≤ 255) {bs rest : List Byte} {i : Instr} :
    decodeLcd cfg bs = .instr i rest ↔
      (∃ a : Addr, i = .lcdTryNew a ∧ bs = 0x10 :: a.setWidth 8 :: rest) ∨
      ∃ text, text.length ≤ cfg.textMax ∧ i = .lcdWriteText text ∧
        bs = 0x11 :: BitVec.ofNat 8 text.length :: (text ++ rest) := by
  constructor
  · intro h
    cases bs with
    | nil => cases h
    | cons b bs =>
      simp only [decodeLcd] at h
      split at h
      · next hb =>
        obtain ⟨a, hi, hbs⟩ := decodeTryNew_eq_instr_iff.mp h
        exact .inl ⟨a, hi, by rw [hb, hbs]⟩
      · split at h
        · next hb =>
          obtain ⟨text, hlen, hi, hbs⟩ := (decodeWriteText_eq_instr_iff hmax).mp h
          exact .inr ⟨text, hlen, hi, by rw [hb, hbs]⟩
        · cases h
  · rintro (⟨a, hi, rfl⟩ | ⟨text, hlen, hi, rfl⟩)
    · exact decodeTryNew_eq_instr_iff.mpr ⟨a, hi, rfl⟩
    · exact (decodeWriteText_eq_instr_iff hmax).mpr ⟨text, hlen, hi, rfl⟩

theorem decodeBus_eq_instr_iff {cfg : Config} (h : cfg.wf = true) {bs rest : List Byte} {i : Instr} :
    decodeBus cfg bs = .instr i rest ↔
      i = .busRelease ∧ bs = releaseByte cfg :: rest ∨
      (∃ x : Byte, x &&& 0x0F = 0 ∧ i = .busAssertCmd x ∧ bs = assertByte x (cmdFlags cfg) :: rest) ∨
      ∃ x : Byte, x &&& 0x0F = 0 ∧ cfg.textFlags ≠ 0 ∧ i = .busAssertChar x ∧
        bs = assertByte x (charFlags cfg) :: rest := by
  constructor
  · intro hd
    cases bs with
    | nil => cases hd
    | cons b bs =>
      simp only [decodeBus] at hd
      split at hd
      · next hb => cases hd; exact .inl ⟨rfl, by rw [hb]⟩
      · split at hd
        · next hb =>
          cases hd
          exact .inr (.inl ⟨_, and_high_and_low b, rfl, by rw [← hb, assertByte_halves]⟩)
        · next hcmd =>
          split at hd
          · next hb =>
            cases hd
            have hflags : cfg.textFlags ≠ 0 := fun hz => hcmd (hb.trans ((charFlags_eq_cmdFlags_iff h).mpr hz))
            exact .inr (.inr ⟨_, and_high_and_low b, hflags, rfl, by rw [← hb, assertByte_halves]⟩)
          · cases hd
  · rintro (⟨rfl, rfl⟩ | ⟨x, hx, rfl, rfl⟩ | ⟨x, hx, hflags, rfl, rfl⟩)
    · exact if_pos rfl
    · have hrel : assertByte x (cmdFlags cfg) ≠ releaseByte cfg := ne_releaseByte h (hasControlBits_cmdFlags cfg).or_right
      obtain ⟨hlow, hhigh⟩ := assertByte_parts hx (cmdFlags_low h)
      simp only [decodeBus, if_neg hrel, hlow, hhigh, if_pos]
    · have hrel : assertByte x (charFlags cfg) ≠ releaseByte cfg :=
        ne_releaseByte h (hasControlBits_charFlags cfg).or_right
      have hcmd : charFlags cfg ≠ cmdFlags cfg := fun heq => hflags ((charFlags_eq_cmdFlags_iff h).mp heq)
      obtain ⟨hlow, hhigh⟩ := assertByte_parts hx (charFlags_low h)
      simp only [decodeBus, if_neg hrel, hlow, hhigh, if_neg hcmd, if_pos]

/-! All three together. -/

/-- Without extra character flags an ASSERT byte does not say which of the two forms it is (assumption log 11). -/
def AmbiguousForm (cfg : Config) (i : Instr) : Prop := (∃ nib, i = .busAssertChar nib) ∧ cfg.textFlags = 0

/-- A decoder reads exactly the well-formed instructions of its port that their bytes tell apart, each from its bytes. -/
theorem decode_eq_instr_iff {cfg : Config} (h : cfg.wf = true) {p : Port} {bs rest : List Byte} {i : Instr} :
    decode cfg p bs = .instr i rest ↔
      i.wf cfg = true ∧ i.port = some p ∧ ¬ AmbiguousForm cfg i ∧ ∃ w, encode cfg i = some w ∧ bs = w ++ rest := by
  have hmax := Config.wf_textMax h
  constructor
  · intro hd
    cases p with
    | kp =>
      obtain ⟨rfl, rfl⟩ := decodeKp_eq_instr_iff.mp hd
      exact ⟨rfl, rfl, by simp [AmbiguousForm], _, rfl, rfl⟩
    | lcd =>
      obtain ⟨a, rfl, rfl⟩ | ⟨text, hlen, rfl, rfl⟩ := (decodeLcd_eq_instr_iff hmax).mp hd
      · exact ⟨rfl, rfl, by simp [AmbiguousForm], _, rfl, rfl⟩
      · exact ⟨decide_eq_true hlen, rfl, by simp [AmbiguousForm], _, rfl, rfl⟩
    | bus =>
      obtain ⟨rfl, rfl⟩ | ⟨x, hx, rfl, rfl⟩ | ⟨x, hx, hflags, rfl, rfl⟩ := (decodeBus_eq_instr_iff h).mp hd
      · exact ⟨rfl, rfl, by simp [AmbiguousForm], _, rfl, rfl⟩
      · exact ⟨beq_iff_eq.mpr hx, rfl, by simp [AmbiguousForm], _, rfl, rfl⟩
      · exact ⟨beq_iff_eq.mpr hx, rfl, fun hamb => hflags hamb.2, _, rfl, rfl⟩
  · rintro ⟨hwf, hport, htold, w, hw, rfl⟩
    cases i with
    | kpPressedKey =>
      cases hport; cases hw
      exact decodeKp_eq_instr_iff.mpr ⟨rfl, rfl⟩
    | lcdTryNew a =>
      cases hport; cases hw
      exact (decodeLcd_eq_instr_iff hmax).mpr (.inl ⟨a, rfl, rfl⟩)
    | lcdWriteText text =>
      cases hport; cases hw
      exact (decodeLcd_eq_instr_iff hmax).mpr (.inr ⟨text, of_decide_eq_true hwf, rfl, rfl⟩)
    | busAssertCmd x =>
      cases hport; cases hw
      exact (decodeBus_eq_instr_iff h).mpr (.inr (.inl ⟨x, beq_iff_eq.mp hwf, rfl, rfl⟩))
    | busAssertChar x =>
      cases hport; cases hw
      exact (decodeBus_eq_instr_iff h).mpr
        (.inr (.inr ⟨x, beq_iff_eq.mp hwf, fun hz => htold ⟨⟨x, rfl⟩, hz⟩, rfl, rfl⟩))
    | busRelease =>
      cases hport; cases hw
      exact (decodeBus_eq_instr_iff h).mpr (.inl ⟨rfl, rfl⟩)
    | kpScan => cases hport
    | kpDecode => cases hport
    | kpEdge => cases hport
    | nwPulse payload flags => cases hport
    | nwSendChar c => cases hport

theorem port_eq_none_iff (cfg : Config) (i : Instr) : i.port = none ↔ encode cfg i = none := by
  cases i <;> simp [Instr.port, encode]

/-- Without extra character flags the two ASSERT forms are one byte (assumption log 11). -/
theorem encode_assertChar_of_textFlags {cfg : Config} (h : cfg.wf = true) (hz : cfg.textFlags = 0) (nib : Byte) :
    encode cfg (.busAssertChar nib) = encode cfg (.busAssertCmd nib) := by
  rw [encode, encode, (charFlags_eq_cmdFlags_iff h).mpr hz]

/-- Settles O1: the decoders read each instruction that its bytes tell apart; the others encode as a command's
form does. -/
theorem decodeOfEncodeGivesTheInstruction : Obligations.DecodeOfEncodeGivesTheInstruction := by
  unfold Obligations.DecodeOfEncodeGivesTheInstruction
  intro cfg i rest h hwf
  refine ⟨port_eq_none_iff cfg i, fun p bs hport hbs => ⟨fun htold => ?_, ?_⟩⟩
  · have hamb : ¬ AmbiguousForm cfg i := fun ⟨⟨nib, hi⟩, hz⟩ => htold nib hi hz
    exact (decode_eq_instr_iff h).mpr ⟨hwf, hport, hamb, bs, hbs, rfl⟩
  · rintro nib rfl hz
    rw [encode_assertChar_of_textFlags h hz] at hbs
    exact (decode_eq_instr_iff h).mpr ⟨hwf, hport, by simp [AmbiguousForm], bs, hbs, rfl⟩

/-- Settles O2: what a decoder reads is a well-formed instruction of its port, from its bytes. -/
theorem encodeOfDecodeGivesTheBytes : Obligations.EncodeOfDecodeGivesTheBytes := by
  unfold Obligations.EncodeOfDecodeGivesTheBytes
  intro cfg p bs i rest h hd
  obtain ⟨hwf, hport, -, hbytes⟩ := (decode_eq_instr_iff h).mp hd
  exact ⟨hwf, hport, hbytes⟩

/-- Settles O3: the decoders evaluate to these instructions on these words. -/
theorem wordsOfTheTableDecode : Obligations.WordsOfTheTableDecode := by
  unfold Obligations.WordsOfTheTableDecode
  exact ⟨rfl, rfl, rfl, rfl, rfl, rfl⟩

end Sys2Proof.Machine
end

section
/-! The bus byte forms where their write answers Ok (30_encoding.md R53, R54, 20_memory.md R36). -/

namespace Sys2Proof.Machine

theorem exec_busForm_ok {s : State} {i : Instr} {x b : Byte} (hh : s.lcd.busHung = false) (ha : s.lcd.answer 0 = .ok)
    (h : i = .busAssertCmd x ∧ b = x ||| (s.cfg.displayOn ||| s.cfg.backlightOn) ∨
      i = .busAssertChar x ∧ b = x ||| (s.cfg.displayOn ||| s.cfg.backlightOn ||| s.cfg.textFlags) ∨
      i = .busRelease ∧ b = s.cfg.backlightOn) :
    exec i s = .next { s with
      lcd := { s.lcd.answered 1 with events := s.lcd.events ++ [.busWrite s.lcd.addr b .ok] } } := by
  rw [exec_busForm h, i2cWrite_ok b s.lcd hh ha]
  rfl

theorem assertByte_highNibble (payload : Byte) {flags : Byte} (h : flags &&& 0xF0 = 0) :
    (assertByte payload flags).extractLsb' 4 4 = payload.extractLsb' 4 4 :=
  congrArg Prod.fst (pinNibbles_or_flags payload h)

/-- Settles O23: each form is the write of its ASSERT byte, whose flags leave the high nibble alone. -/
theorem assertByteFormsAreOneWriteEach : Obligations.AssertByteFormsAreOneWriteEach := by
  unfold Obligations.AssertByteFormsAreOneWriteEach
  intro s x hwf hh ha
  refine ⟨assertByte x (cmdFlags s.cfg), assertByte x (charFlags s.cfg),
    exec_busForm_ok hh ha (.inl ⟨rfl, rfl⟩), assertByte_highNibble x (cmdFlags_low hwf), ?_,
    exec_busForm_ok hh ha (.inr (.inl ⟨rfl, rfl⟩)), assertByte_highNibble x (charFlags_low hwf), ?_⟩
  · rw [assertByte_low x (cmdFlags_low hwf), cmdFlags, BitVec.or_assoc]
  · rw [assertByte_low x (charFlags_low hwf), charFlags, BitVec.or_assoc, BitVec.or_assoc, BitVec.or_assoc]

/-- Settles O24: the form is the write of the backlight bit, which is none of the others. -/
theorem releaseByteFormIsOneWrite : Obligations.ReleaseByteFormIsOneWrite := by
  unfold Obligations.ReleaseByteFormIsOneWrite
  intro s hwf hh ha
  obtain ⟨hd, hb, hne⟩ := Config.wf_controlBits hwf
  have htext : s.cfg.backlightOn &&& s.cfg.textFlags = 0 := by
    have hnone := Config.wf_textFlags_disjoint hwf
    rw [cmdFlags, BitVec.and_or_distrib_left] at hnone
    rw [BitVec.and_comm]
    exact (BitVec.or_eq_zero_iff.mp hnone).2
  exact ⟨s.cfg.backlightOn, exec_busForm_ok (x := 0) hh ha (.inr (.inr ⟨rfl, rfl⟩)), rfl,
    controlBits_disjoint hd hb hne, htext, (controlBit_low hb).1⟩

end Sys2Proof.Machine
end

section
/-! Texts sent one after another (30_encoding.md R63, 42_lcd_driver.md R102). -/

namespace Sys2Proof.Machine

/-- LCD after a text has been sent whole; `writeText_eq_textSent` ties it to the machine. -/
def Lcd.textSent (cfg : Config) (text : List Byte) (l : Lcd) : Lcd :=
  { l.answered (4 * text.length) with
    events := l.events ++ textEvents cfg l.addr text
    pc := .idle
    text := []
    results := l.results ++ [.ok] }

theorem writeText_eq_textSent {cfg : Config} {l : Lcd} {text : List Byte} (hs : l.state = .ready)
    (hh : l.busHung = false) (hok : l.allOk (4 * text.length)) : writeText cfg text l = l.textSent cfg text := by
  obtain ⟨p, hp⟩ := writeText_allOk (cfg := cfg) hs hh hok
  rw [hp, Lcd.ran, actWrites_textActs, actEvents_textActs]
  rfl

theorem exec_writeText_eq_textSent {s : State} {text : List Byte} (hpc : s.lcd.pc = .idle) (hs : s.lcd.state = .ready)
    (hh : s.lcd.busHung = false) (hok : s.lcd.allOk (4 * text.length)) :
    exec (.lcdWriteText text) s = .next { s with lcd := s.lcd.textSent s.cfg text } := by
  rw [exec, execLcdWriteText, if_pos hpc, writeText_eq_textSent hs hh hok]

/-- Two texts sent are the whole text sent, with one more result. -/
theorem Lcd.textSent_textSent (cfg : Config) (x y : List Byte) (l : Lcd) :
    (l.textSent cfg x).textSent cfg y =
      { l.textSent cfg (x ++ y) with results := (l.textSent cfg (x ++ y)).results ++ [.ok] } := by
  have hans : (l.answered (4 * x.length)).answered (4 * y.length) = l.answered (4 * (x ++ y).length) := by
    rw [Lcd.answered_answered, List.length_append, Nat.mul_add]
  have hevents : textEvents cfg l.addr (x ++ y) = textEvents cfg l.addr x ++ textEvents cfg l.addr y :=
    List.flatMap_append
  unfold Lcd.textSent
  rw [← hans, hevents, ← List.append_assoc]
  rfl

/-- Settles O34: the second text begins where the first left the bus's answers. -/
theorem splittingATextIsTransparent : Obligations.SplittingATextIsTransparent := by
  unfold Obligations.SplittingATextIsTransparent
  intro s x y hpc hs hh hok
  rw [Nat.mul_add] at hok
  have hx : s.lcd.allOk (4 * x.length) := fun i hi => hok i (by omega)
  have hy : (s.lcd.textSent s.cfg x).allOk (4 * y.length) := Lcd.allOk_answered hok
  have hxy : s.lcd.allOk (4 * (x ++ y).length) := by rwa [List.length_append, Nat.mul_add]
  refine ⟨_, _, _, exec_writeText_eq_textSent hpc hs hh hx, exec_writeText_eq_textSent rfl hs hh hy,
    exec_writeText_eq_textSent hpc hs hh hxy, ?_⟩
  rw [Lcd.textSent_textSent]

end Sys2Proof.Machine
end

section
/-! What a turn does with the command at the port: an idle agent runs it, a busy one leaves it (30_encoding.md R59, R60,
40_keypad.md R73). -/

namespace Sys2Proof.Machine

theorem serveKp_instr {s : State} {i : Instr} {rest : List Byte} (hpc : s.kp.pc = .idle)
    (hd : decode s.cfg .kp s.kp.port = .instr i rest) : serveKp s = exec i (s.withKpPort rest) := by
  simp only [serveKp, if_pos hpc, hd]

theorem serveLcd_instr {s : State} {i : Instr} {rest : List Byte} (hpc : s.lcd.pc = .idle)
    (hd : decode s.cfg .lcd s.lcd.port = .instr i rest) : serveLcd s = exec i (s.withLcdPort rest) := by
  simp only [serveLcd, if_pos hpc, hd]

/-- A busy KP in turn takes one action, whichever of its turns it is (assumption log 21). -/
theorem Kp.after_busy {t : Turn} {k : Kp} (ht : t = .kp ∨ t = .kpEvent) (hpc : k.pc ≠ .idle) :
    k.after t = kpAdvance k := by
  obtain rfl | rfl := ht
  · exact if_neg hpc
  · exact kpEvent_busy hpc

/-- A busy LCD in turn takes one step, whichever of its turns it is (assumption log 21). -/
theorem Lcd.after_busy {cfg : Config} {t : Turn} {l : Lcd} (ht : t = .lcd ∨ t = .lcdEvent) (hpc : l.pc ≠ .idle) :
    l.after cfg t = lcdAdvance cfg l := by
  obtain rfl | rfl := ht
  · exact if_neg hpc
  · exact lcdEvent_busy hpc

theorem step_kp_busy {s : State} (ht : s.turn = .kp ∨ s.turn = .kpEvent) (hpc : s.kp.pc ≠ .idle) :
    step s = .next { s.pastTurn with kp := kpAdvance s.kp } := by
  have hlcd : s.lcd.after s.cfg s.turn = s.pastTurn.lcd := by
    rw [s.pastTurn_lcd]
    obtain ht | ht := ht <;> rw [ht] <;> rfl
  rw [step_eq, Kp.after_busy ht hpc, hlcd]

/-- Settles O4: an idle agent in turn runs what its port decodes to; KP.DECODE and KP.EDGE are the sequencer's actions at
their positions. -/
theorem stepRunsTheDecodedInstruction : Obligations.StepRunsTheDecodedInstruction := by
  unfold Obligations.StepRunsTheDecodedInstruction
  refine ⟨?kpCommand, ?lcdCommand, ?decode, ?edge⟩
  case kpCommand =>
    intro s i rest ht hpc hd
    rw [step, ht]
    exact serveKp_instr (by rwa [s.pastTurn_kp]) (by rwa [s.pastTurn_kp, s.pastTurn_cfg])
  case lcdCommand =>
    intro s i rest ht hpc hd
    rw [step, ht]
    exact serveLcd_instr (by rwa [s.pastTurn_lcd]) (by rwa [s.pastTurn_lcd, s.pastTurn_cfg])
  case decode =>
    intro s ht hpc
    refine ⟨{ s.pastTurn with kp := kpAt s.pastTurn.kp .decode }, rfl, ?_⟩
    rw [step_kp_busy ht (by simp [hpc]), kpAdvance_inside (by simp [hpc]) (by simp [hpc]), hpc, s.pastTurn_kp]
    rfl
  case edge =>
    intro s ht hpc
    refine ⟨{ s.pastTurn with kp := kpAt s.pastTurn.kp .edge }, rfl, ?_⟩
    rw [step_kp_busy ht (by simp [hpc]), kpAdvance_edge hpc, s.pastTurn_kp]
    rfl

/-- Settles O8: a command offered to a busy agent changes nothing, and an action of the sequencer keeps the port. -/
theorem busyAgentTakesNoCommand : Obligations.BusyAgentTakesNoCommand := by
  unfold Obligations.BusyAgentTakesNoCommand
  refine ⟨fun s t hpc ht => ⟨?_, fun hstep => ?_⟩, fun s t a text hpc ht => ⟨?_, ?_, fun hstep => ?_⟩⟩
  · rw [exec, execKpPressedKey, if_neg hpc]
  · rw [step_kp hstep, Kp.after_busy ht hpc, kpAdvance_port]
  · rw [exec, execLcdTryNew, if_neg hpc]
  · rw [exec, execLcdWriteText, if_neg hpc]
  · rw [step_lcd hstep, Lcd.after_busy ht hpc]
    exact (lcdAdvance_keeps s.cfg s.lcd).1

end Sys2Proof.Machine
end

section
/-! The keypad: one call of KP.PRESSED_KEY part by part, calls in a row, and the row history (40_keypad.md). -/

namespace Sys2Proof.Machine

/-! KP.SCAN (R70). -/

/-- Settles O9: the scan that reads the sixteen answers and ends at the last row's release. -/
theorem scanStrobesRowsAndRecordsTheGrid : Obligations.ScanStrobesRowsAndRecordsTheGrid := by
  unfold Obligations.ScanStrobesRowsAndRecordsTheGrid
  intro s
  refine ⟨.rowLo 3, ?_⟩
  rw [exec, execKpScan, kpScan_eq]
  rfl

/-! KP.DECODE (R71, R74, R79). -/

/-- A loop in which every element that passes overwrites the result: none passes and the result is what it was, or the
last that passes gives it. -/
theorem foldl_overwrite_cases {α β : Type} (p : α → Bool) (f : α → β) (l : List α) (before : Option β) :
    ((∀ x ∈ l, p x = false) ∧ l.foldl (fun acc x => if p x then some (f x) else acc) before = before) ∨
    ∃ xs y zs, l = xs ++ y :: zs ∧ p y = true ∧ (∀ z ∈ zs, p z = false) ∧
      l.foldl (fun acc x => if p x then some (f x) else acc) before = some (f y) := by
  induction l generalizing before with
  | nil => exact .inl ⟨nofun, rfl⟩
  | cons x l ih =>
    rw [List.foldl_cons]
    obtain ⟨hnone, hres⟩ | ⟨xs, y, zs, rfl, hy, hzs, hres⟩ := ih (if p x then some (f x) else before)
    · rw [hres]
      cases hx : p x with
      | true => exact .inr ⟨[], x, l, rfl, hx, hnone, rfl⟩
      | false => exact .inl ⟨List.forall_mem_cons.mpr ⟨hx, hnone⟩, rfl⟩
    · exact .inr ⟨x :: xs, y, zs, rfl, hy, hzs, hres⟩

theorem mem_cells : ∀ rc : Fin 4 × Fin 4, rc ∈ cells := by
  decide

/-- The cells are visited in the order of their indices (20_memory.md R33). -/
theorem cells_pairwise : cells.Pairwise fun a b => 4 * a.1.val + a.2.val < 4 * b.1.val + b.2.val := by
  decide

/-- The decode loop gives no key where no cell is set, else the key of the last set cell (40_keypad.md R74). -/
theorem decodeGrid_cases (g : Grid) :
    ((∀ r k : Fin 4, g.at r k = false) ∧ decodeGrid g = none) ∨
    ∃ r k : Fin 4, g.at r k = true ∧ decodeGrid g = some (lutRead r k) ∧
      ∀ r' k' : Fin 4, 4 * r.val + k.val < 4 * r'.val + k'.val → g.at r' k' = false := by
  obtain ⟨hnone, hres⟩ | ⟨xs, ⟨r, k⟩, zs, hcells, hset, hclear, hres⟩ :=
    foldl_overwrite_cases (fun rc => g.at rc.1 rc.2) (fun rc => lutRead rc.1 rc.2) cells none
  · exact .inl ⟨fun r k => hnone (r, k) (mem_cells (r, k)), hres⟩
  · refine .inr ⟨r, k, hset, hres, fun r' k' hlater => hclear (r', k') ?_⟩
    have hmem := mem_cells (r', k')
    have horder := cells_pairwise
    rw [hcells] at hmem horder
    obtain hbefore | hmem := List.mem_append.mp hmem
    · have hearlier := (List.pairwise_append.mp horder).2.2 _ hbefore _ List.mem_cons_self
      exact absurd hlater (Nat.lt_asymm hearlier)
    · obtain hsame | hafter := List.mem_cons.mp hmem
      · cases hsame
        exact absurd hlater (Nat.lt_irrefl _)
      · exact hafter

theorem exec_kpDecode (s : State) :
    exec .kpDecode s = .next { s with kp := { s.kp with candidate := decodeGrid s.kp.grid, pc := .decode } } := rfl

/-- Settles O10: the candidate is the decode loop's result. -/
theorem decodeTakesTheLastPressedCell : Obligations.DecodeTakesTheLastPressedCell := by
  unfold Obligations.DecodeTakesTheLastPressedCell
  exact fun s => ⟨.decode, decodeGrid s.kp.grid, exec_kpDecode s, decodeGrid_cases s.kp.grid⟩

/-- A loop that sets bit `idx x` for every `x` that passes. -/
theorem getLsbD_foldl_setBit {α : Type} {w : Nat} (p : α → Bool) (idx : α → Nat) (l : List α) (before : BitVec w)
    {n : Nat} (hn : n < w) :
    (l.foldl (fun acc x => if p x then acc ||| 1#w <<< idx x else acc) before).getLsbD n =
      (before.getLsbD n || l.any fun x => p x && idx x == n) := by
  induction l generalizing before with
  | nil => simp
  | cons x l ih =>
    rw [List.foldl_cons, ih, List.any_cons]
    have hbit : (1#w <<< idx x).getLsbD n = (idx x == n) := by
      rw [← BitVec.twoPow_eq, BitVec.getLsbD_twoPow]
      by_cases h : idx x = n
      · simp [h, hn]
      · simp [h]
    cases p x with
    | true => simp [hbit, Bool.or_assoc]
    | false => simp

/-- Bit `4*r + c` of the grid word is the cell `(r, c)` (30_encoding.md R52). -/
theorem Grid.getLsbD_word (g : Grid) (r c : Fin 4) : g.word.getLsbD (4 * r.val + c.val) = g.at r c := by
  have hidx : ∀ rc : Fin 4 × Fin 4, 4 * rc.1.val + rc.2.val = 4 * r.val + c.val ↔ rc = (r, c) := by
    rintro ⟨r', c'⟩
    simp only [Prod.mk.injEq, Fin.ext_iff]
    omega
  rw [Grid.word, getLsbD_foldl_setBit (fun rc => g.at rc.1 rc.2) (fun rc => 4 * rc.1.val + rc.2.val) cells 0 (by omega)]
  rw [BitVec.ofNat_eq_ofNat, BitVec.getLsbD_zero, Bool.false_or, Bool.eq_iff_iff, List.any_eq_true]
  simp only [Bool.and_eq_true, beq_iff_eq, hidx]
  constructor
  · rintro ⟨rc, -, hset, rfl⟩
    exact hset
  · exact fun hset => ⟨(r, c), mem_cells (r, c), hset, rfl⟩

/-- Settles O11: the highest set bit of the word is the last set cell, and the table is read in linear order. -/
theorem decodeIsAPriorityEncoder : Obligations.DecodeIsAPriorityEncoder := by
  unfold Obligations.DecodeIsAPriorityEncoder
  intro s
  have htable : ∀ r k : Fin 4, [Key.One, .Two, .Three, .A, .Four, .Five, .Six, .B, .Seven, .Eight, .Nine, .C, .Wildcard,
      .Zero, .Pound, .D][4 * r.val + k.val]? = some (lutRead r k) := by decide
  refine ⟨.decode, decodeGrid s.kp.grid, exec_kpDecode s, s.kp.grid.getLsbD_word, fun hzero => ?none,
    fun i hi hhigher => ?key⟩
  case none =>
    obtain ⟨-, hnone⟩ | ⟨r, k, hset, -⟩ := decodeGrid_cases s.kp.grid
    · exact hnone
    · rw [← Grid.getLsbD_word, hzero] at hset
      simp at hset
  case key =>
    have hquot : 4 * (i.val / 4) + i.val % 4 = i.val := Nat.div_add_mod i.val 4
    have hcell : s.kp.grid.at ⟨i.val / 4, by omega⟩ ⟨i.val % 4, by omega⟩ = true := by
      rw [← Grid.getLsbD_word, hquot, hi]
    obtain ⟨hclear, -⟩ | ⟨r, k, hset, hkey, hlater⟩ := decodeGrid_cases s.kp.grid
    · rw [hclear] at hcell
      cases hcell
    · obtain hlt | heq | hgt := Nat.lt_trichotomy (4 * r.val + k.val) i.val
      · rw [hlater _ _ (by simpa only [hquot] using hlt)] at hcell
        cases hcell
      · rw [hkey, ← heq, htable]
      · have hclear := hhigher ⟨4 * r.val + k.val, by omega⟩ hgt
        rw [Grid.getLsbD_word, hset] at hclear
        cases hclear

/-! KP.EDGE (R72). -/

/-- After KP.EDGE the candidate is the stored key, changed or not. -/
theorem edgeDetect_eq (k : Kp) :
    edgeDetect k =
      { k with lastReportedKey := k.candidate, ret := if k.candidate = k.lastReportedKey then none else k.candidate } := by
  unfold edgeDetect
  split
  · next h => rw [h]
  · rfl

theorem exec_kpEdge (s : State) :
    exec .kpEdge s = .next { s with kp := { s.kp with
      lastReportedKey := s.kp.candidate
      ret := if s.kp.candidate = s.kp.lastReportedKey then none else s.kp.candidate
      pc := .edge } } := by
  rw [exec, execKpEdge, kpAt, kpAct, edgeDetect_eq]

/-- Settles O12: the stored key is the candidate either way; what is returned tells the two cases apart. -/
theorem edgeReportsOnlyAChange : Obligations.EdgeReportsOnlyAChange := by
  unfold Obligations.EdgeReportsOnlyAChange
  intro s
  refine ⟨.edge, fun hsame => ?_, fun hchanged => ?_⟩
  · rw [exec_kpEdge, if_pos hsame, hsame]
  · rw [exec_kpEdge, if_neg hchanged]

/-! KP.PRESSED_KEY (R73, R75). -/

/-- KP after a call that reads the candidate `c`; `pressedKey_eq` ties it to the machine. -/
def Kp.called (k : Kp) (c : Option Key) : Kp :=
  { k.answered 16 with
    rowOut := 0
    grid := answeredGrid k
    candidate := c
    lastReportedKey := c
    ret := if c = k.lastReportedKey then none else c
    events := k.events ++ scanEvents (answeredGrid k)
    results := k.results ++ [.key (if c = k.lastReportedKey then none else c)]
    pc := .idle }

theorem pressedKey_eq (k : Kp) : pressedKey k = k.called (decodeGrid (answeredGrid k)) := by
  rw [pressedKey, kpScan_eq, kpAt, kpAct, edgeDetect_eq]
  rfl

/-- Settles O13: on an idle KP the command is the call. -/
theorem pressedKeyScansDecodesAndReports : Obligations.PressedKeyScansDecodesAndReports := by
  unfold Obligations.PressedKeyScansDecodesAndReports
  rintro s c out hpc rfl rfl
  rw [exec, execKpPressedKey, if_pos hpc, pressedKey_eq]
  rfl

/-- An idle KP in turn with the command at its port runs the call whole. -/
theorem Kp.after_command {k : Kp} {rest : List Byte} (hpc : k.pc = .idle) (hport : k.port = 0x01 :: rest) :
    k.after .kp = pressedKey { k with port := rest } := by
  rw [Kp.after, Kp.served, if_pos hpc, hport]
  rfl

/-- The next `n + 1` candidates: that of the scan to come, and the `n` of the scans after it. -/
theorem candidates_succ (k : Kp) (n : Nat) :
    candidates k (n + 1) = decodeGrid (answeredGrid k) :: candidates (k.answered 16) n := by
  have hlater : ∀ i, k.answered (16 * (i + 1)) = (k.answered 16).answered (16 * i) := fun i => by
    rw [Kp.answered_answered, Nat.mul_succ, Nat.add_comm]
  simp only [candidates, List.range_succ_eq_map, List.map_cons, List.map_map, Nat.mul_zero, Kp.answered_zero]
  congr 1
  exact List.map_congr_left fun i _ => by rw [Function.comp_apply, Nat.succ_eq_add_one, hlater]

/-- Settles O14, by induction on the number of calls. -/
theorem callsReportEachTransitionOnce : Obligations.CallsReportEachTransitionOnce := by
  unfold Obligations.CallsReportEachTransitionOnce
  intro s n
  induction n generalizing s with
  | zero =>
    intro rest ts hpc hport hturns
    exact ⟨s, rfl, (List.append_nil _).symm, rfl, hpc, hport, rfl, hturns⟩
  | succ n ih =>
    intro rest ts hpc hport hturns
    rw [List.replicate_succ, List.cons_append] at hport hturns
    rw [run_succ n (step_of_turns hturns), Kp.after_command hpc hport, pressedKey_eq, candidates_succ]
    obtain ⟨t, hrun, hresults, hlast, hidle, hrest, hlcd, hts⟩ := ih { s with
      kp := Kp.called { s.kp with port := List.replicate n 0x01 ++ rest } (decodeGrid (answeredGrid s.kp))
      turns := List.replicate n .kp ++ ts } rest ts rfl rfl rfl
    refine ⟨t, hrun, ?_, hlast, hidle, hrest, hlcd, hts⟩
    rw [hresults, reports, List.map_cons, ← List.singleton_append (l := List.map _ _), ← List.append_assoc]
    rfl

/-! KP.PRESSED_KEY event by event (R80). -/

/-- Event turns of KP are events of KP one after another, and nothing else. -/
theorem run_kpEvents (n : Nat) (s : State) (ts : List Turn) :
    run n { s with turns := List.replicate n .kpEvent ++ ts } = .next { s with kp := kpEvent^[n] s.kp, turns := ts } := by
  induction n generalizing s with
  | zero => rfl
  | succ n ih =>
    rw [List.replicate_succ, List.cons_append, run_succ n (step_of_turns rfl)]
    exact ih { s with kp := kpEvent s.kp }

/-- Every advance takes the sequencer to the next position; an idle one stays. -/
theorem kpAdvance_pc_eq_next (k : Kp) : (kpAdvance k).pc = k.pc.next := by
  by_cases hi : k.pc = .idle
  · rw [kpAdvance_idle hi, hi]
    rfl
  · by_cases he : k.pc = .edge
    · rw [kpAdvance_edge he, he]
      rfl
    · exact kpAdvance_pc hi he

/-- While an operation lasts its events are advances: none of them accepts a command. -/
theorem kpEvent_iterate_eq_kpAdvance (n : Nat) (k : Kp) (h : ∀ i < n, KpPc.next^[i] k.pc ≠ .idle) :
    kpEvent^[n] k = kpAdvance^[n] k := by
  induction n generalizing k with
  | zero => rfl
  | succ n ih =>
    rw [Function.iterate_succ_apply, Function.iterate_succ_apply, kpEvent_busy (h 0 n.succ_pos)]
    refine ih (kpAdvance k) fun i hi => ?_
    rw [kpAdvance_pc_eq_next]
    exact h (i + 1) (Nat.succ_lt_succ hi)

/-- Settles O17: the first event accepts the command, and the 26 advances of the call are the others. -/
theorem atomicPressedKeyEqualsItsEvents : Obligations.AtomicPressedKeyEqualsItsEvents := by
  unfold Obligations.AtomicPressedKeyEqualsItsEvents
  intro s rest ts hpc hport
  have haccept : kpEvent s.kp = kpBegin { s.kp with port := rest } := by
    rw [kpEvent, if_pos hpc, kpAccept, hport]
    rfl
  have hevents : kpEvent^[27] s.kp = s.kp.after .kp := by
    rw [Function.iterate_succ_apply, haccept, kpEvent_iterate_eq_kpAdvance 26 _ (by rw [kpBegin_pc]; decide),
      Kp.after_command hpc hport, pressedKey_eq_iterate]
  rw [run_kpEvents, hevents, step_of_turns rfl]
  rfl

/-! The rows in the history (R78). -/

theorem rowMask_ne_zero : ∀ r : Fin 4, rowMask r ≠ 0 := by
  decide

theorem rowMask_injective : ∀ r r' : Fin 4, rowMask r = rowMask r' → r = r' := by
  decide

/-- While a disciplined history does not release the one high row, that row stays the one high row. -/
theorem replayRows_append_unreleased {xs ys : List KpEvent} {r : Fin 4} {rows : BitVec 4}
    (hx : replayRows xs = some (rowMask r)) (hkept : .rowSet r false ∉ ys) (h : replayRows (xs ++ ys) = some rows) :
    rows = rowMask r := by
  induction ys using List.reverseRecOn generalizing rows with
  | nil => simpa [hx] using h.symm
  | append_singleton ys e ih =>
    rw [List.mem_append, not_or] at hkept
    rw [← List.append_assoc, replayRows_append_one] at h
    obtain ⟨r', -, hb, -⟩ | ⟨r', rfl, hb, -⟩ | ⟨c, v, -, hb, -⟩ := rowStep_eq_some h
    · exact absurd (ih hkept.1 hb).symm (rowMask_ne_zero r)
    · cases rowMask_injective r' r (ih hkept.1 hb)
      exact absurd (List.mem_singleton_self _) hkept.2
    · exact ih hkept.1 hb

/-- A row goes high only when all are low, and is the one high row then. -/
theorem replayRows_append_rowHi {es : List KpEvent} {r : Fin 4} {rows : BitVec 4}
    (h : replayRows (es ++ [.rowSet r true]) = some rows) : replayRows es = some 0 ∧ rows = rowMask r := by
  rw [replayRows_append_one] at h
  obtain ⟨_, he, hb, hrows⟩ | ⟨_, he, -⟩ | ⟨_, _, he, -⟩ := rowStep_eq_some h
  · cases he
    exact ⟨hb, hrows⟩
  · cases he
  · cases he

/-- Settles O19: the second row goes high when all are low; were the first not released, it would be high still. -/
theorem eachRowIsReleasedBeforeTheNext : Obligations.EachRowIsReleasedBeforeTheNext := by
  unfold Obligations.EachRowIsReleasedBeforeTheNext
  rintro s ⟨⟨-, hreplay⟩, -⟩ xs r ys r' zs hes
  rw [hes, List.append_cons, ← List.append_assoc, List.append_cons] at hreplay
  obtain ⟨_, hsecond⟩ := replayRows_of_append hreplay
  obtain ⟨hlow, -⟩ := replayRows_append_rowHi hsecond
  obtain ⟨rows, hfirst⟩ := replayRows_of_append hlow
  obtain ⟨-, rfl⟩ := replayRows_append_rowHi hfirst
  by_contra hkept
  exact rowMask_ne_zero r (replayRows_append_unreleased hfirst hkept hlow).symm

end Sys2Proof.Machine
end

section
/-! The pulse and the character where their writes answer Ok, and where one of them fails (41_nibble_writer.md R90, R91,
R93). -/

namespace Sys2Proof.Machine

/-! A paced list of steps that ends at a failing write. -/

/-- The history that ends at a bus write that failed has all before it, then the write (42_lcd_driver.md R104). -/
theorem failedAt_append (es fs : List LcdEvent) (a : Addr) (b : Byte) (o : BusOutcome) :
    failedAt (es ++ .busWrite a b o :: fs) es.length = es ++ [.busWrite a b .busError] := by
  have hwrite : (es ++ .busWrite a b o :: fs)[es.length]? = some (.busWrite a b o) := by simp
  rw [failedAt, List.take_left, hwrite]

/-- Write number `k` of a paced list is event `2 * k`. -/
theorem Paced.failedAt_eq {xs ys zs : List (LcdPc × LcdAct)} {p : LcdPc} {b : Byte} (h : Paced xs)
    (hxs : xs = ys ++ (p, .write b) :: zs) (a : Addr) :
    failedAt (actEvents a xs) (2 * actWrites ys) = actEvents a ys ++ [.busWrite a b .busError] := by
  subst hxs
  have hlen : (actEvents a ys).length = 2 * actWrites ys := (List.length_map _).trans h.length_eq
  rw [← hlen, actEvents, List.map_append]
  exact failedAt_append _ _ a b .ok

/-- A write that fails ends the steps there and the operation with them; `st` is the lifecycle that the exception leaves
at every position of the steps (60_exceptions.md R122). -/
theorem runActs_busError_of_paced {xs : List (LcdPc × LcdAct)} (hx : Paced xs) {k : Nat} (h : k < actWrites xs)
    {l : Lcd} {st : LcdState} (hst : ∀ x ∈ xs, stateAfterError { l with pc := x.1 } = st) (hh : l.busHung = false)
    (hok : l.allOk k) (ha : l.answer k = .busError) :
    (runActs xs l).2 =
      { l.answered (k + 1) with
        events := l.events ++ failedAt (actEvents l.addr xs) (2 * k)
        results := l.results ++ [.busError]
        state := st
        text := []
        pc := .idle } := by
  obtain ⟨ys, p, b, zs, hxs, rfl, hrun⟩ := runActs_busError h hh hok ha
  have hp : stateAfterError { l with pc := p } = st := hst (p, .write b) (by simp [hxs])
  rw [hrun, hx.failedAt_eq hxs, ← List.append_assoc, ← Lcd.answered_answered, ← hp]
  rfl

/-! The positions of a pulse and of a character lie in the operation that the sequencer stands in. -/

theorem stateAfterError_pulseSite (l : Lcd) (q : Fin 4) :
    stateAfterError { l with pc := l.pc.pulseSite q } = stateAfterError l := by
  unfold stateAfterError
  cases l.pc <;> rfl

theorem stateAfterError_charSite (l : Lcd) (h : Half) (q : Fin 4) :
    stateAfterError { l with pc := l.pc.charSite h q } = stateAfterError l := by
  unfold stateAfterError
  cases l.pc <;> rfl

theorem pulseActs_pos {cfg : Config} {site : Fin 4 → LcdPc} {payload flags : Byte} {x : LcdPc × LcdAct}
    (hx : x ∈ pulseActs cfg site payload flags) : ∃ q, x.1 = site q := by
  obtain ⟨q, -, rfl⟩ := List.mem_map.mp hx
  exact ⟨q, rfl⟩

theorem charActs_pos {cfg : Config} {site : Half → Fin 4 → LcdPc} {c : Byte} {x : LcdPc × LcdAct}
    (hx : x ∈ charActs cfg site c) : ∃ h q, x.1 = site h q := by
  obtain hx | hx := List.mem_append.mp hx
  · exact ⟨.hi, pulseActs_pos hx⟩
  · exact ⟨.lo, pulseActs_pos hx⟩

/-! NW.PULSE (R90, R93). -/

/-- Settles O20: the steps of the pulse run to completion, and their events are the four listed. -/
theorem pulseIsAssertWaitReleaseWait : Obligations.PulseIsAssertWaitReleaseWait := by
  unfold Obligations.PulseIsAssertWaitReleaseWait
  intro s payload flags hh hok
  obtain ⟨p, hp⟩ := runActs_allOk (pulseActs s.cfg s.lcd.pc.pulseSite payload flags) hh hok
  exact ⟨p, by rw [exec, execNwPulse, hp]; rfl⟩

/-- A failing write `k` of a pulse ends it there, and the operation that called it (R93). -/
theorem exec_nwPulse_busError {s : State} (payload flags : Byte) {k : Nat} {st : LcdState} (hh : s.lcd.busHung = false)
    (hk : k < 2) (hok : s.lcd.allOk k) (ha : s.lcd.answer k = .busError)
    (hpc : (∃ i, s.lcd.pc = .init i) ∧ st = .failed ∨ (∃ j h q, s.lcd.pc = .text j h q) ∧ st = s.lcd.state) :
    exec (.nwPulse payload flags) s = .next { s with
      lcd := { s.lcd.answered (k + 1) with
        events := s.lcd.events ++ failedAt (pulseEvents s.cfg s.lcd.addr payload flags) (2 * k)
        results := s.lcd.results ++ [.busError]
        state := st
        text := []
        pc := .idle } } := by
  have hst : ∀ x ∈ pulseActs s.cfg s.lcd.pc.pulseSite payload flags, stateAfterError { s.lcd with pc := x.1 } = st := by
    intro x hx
    obtain ⟨q, hq⟩ := pulseActs_pos hx
    rw [hq, stateAfterError_pulseSite, stateAfterError_eq hpc]
  rw [exec, execNwPulse, runActs_busError_of_paced (paced_pulseActs ..) hk hst hh hok ha, actEvents_pulseActs]

/-- Settles O21: the first or the second write of the pulse fails, and the history ends with it. -/
theorem pulseStopsAtTheFailingWrite : Obligations.PulseStopsAtTheFailingWrite := by
  unfold Obligations.PulseStopsAtTheFailingWrite
  intro s payload flags st hh hpc
  refine ⟨fun ha => ?assertFails, fun hassert ha => ?releaseFails⟩
  case assertFails => exact exec_nwPulse_busError payload flags hh (by decide) nofun ha hpc
  case releaseFails =>
    have hok : s.lcd.allOk 1 := fun i hi => by rwa [Nat.lt_one_iff.mp hi]
    exact exec_nwPulse_busError payload flags hh (by decide) hok ha hpc

/-! NW.SEND_CHAR (R91, R93). -/

/-- Settles O22: the steps of the character are the high nibble's pulse and the low nibble's, run to completion or to the
failing write. -/
theorem sendCharSendsHighThenLowNibble : Obligations.SendCharSendsHighThenLowNibble := by
  unfold Obligations.SendCharSendsHighThenLowNibble
  intro s c hh
  refine ⟨fun hok => ?completes, fun k st hk hok ha hpc => ?fails⟩
  case completes =>
    obtain ⟨p, hp⟩ := runActs_allOk (charActs s.cfg s.lcd.pc.charSite c) hh hok
    exact ⟨p, by rw [exec, execNwSendChar, hp]; rfl⟩
  case fails =>
    have hst : ∀ x ∈ charActs s.cfg s.lcd.pc.charSite c, stateAfterError { s.lcd with pc := x.1 } = st := by
      intro x hx
      obtain ⟨h, q, hq⟩ := charActs_pos hx
      rw [hq, stateAfterError_charSite, stateAfterError_eq hpc]
    rw [exec, execNwSendChar, runActs_busError_of_paced (paced_charActs ..) hk hst hh hok ha, actEvents_charActs]

end Sys2Proof.Machine
end

section
/-! The LCD driver: the bus write of each position, and the two host commands run to their end, to their first failing
write, or Refused (42_lcd_driver.md). -/

namespace Sys2Proof.Machine

/-! A write position of the sequencer (R101, 41_nibble_writer.md R90, R91). -/

/-- A turn of LCD, of either kind, leaves KP as it is. -/
theorem step_lcd_turn {s : State} (ht : s.turn = .lcd ∨ s.turn = .lcdEvent) :
    step s = .next { s.pastTurn with lcd := s.lcd.after s.cfg s.turn } := by
  have hkp : s.kp.after s.turn = s.pastTurn.kp := by
    rw [s.pastTurn_kp]
    obtain ht | ht := ht <;> rw [ht] <;> rfl
  rw [step_eq, hkp]

/-- A step that is a bus write does that write, and the sequencer moves on where it answers Ok. -/
theorem lcdAdvance_write {cfg : Config} {l : Lcd} {b : Byte} (hh : l.busHung = false)
    (hs : stepAt cfg l.text l.pc = some (.write b)) :
    lcdAdvance cfg l = if l.answer 0 = .ok then lcdMoveOn cfg (i2cWrite b l).2 else (i2cWrite b l).2 := by
  rw [lcdAdvance_step hh hs, lcdAct]
  cases ha : l.answer 0 with
  | ok => rw [i2cWrite_ok b l hh ha]; rfl
  | busError => rw [i2cWrite_busError b l hh ha]; rfl
  | never => rw [i2cWrite_never b l hh ha]; rfl

/-- The step at position `q` of pulse `k` of the handshake (R101). -/
theorem stepAt_initSite (cfg : Config) (text : List Byte) (k : Nat) (q : Fin 4) :
    stepAt cfg text (initSite k q) = some (pulseAct cfg (handshakeByte cfg k) (cmdFlags cfg) q) := by
  have hdiv : (4 * k + q.val) / 4 = k := by omega
  have hmod : Fin.ofNat 4 (4 * k + q.val) = q := by ext; simp
  rw [initSite, show 1 + 4 * k + q.val = 4 * k + q.val + 1 by omega, stepAt_init_succ, hdiv, hmod]

theorem stepAt_init_assert (cfg : Config) (text : List Byte) (k : Nat) :
    stepAt cfg text (.init (4 * k + 1)) = some (.write (assertByte (handshakeByte cfg k) (cmdFlags cfg))) := by
  rw [Nat.add_comm]
  exact stepAt_initSite cfg text k 0

theorem stepAt_init_release (cfg : Config) (text : List Byte) (k : Nat) :
    stepAt cfg text (.init (4 * k + 3)) = some (.write (releaseByte cfg)) := by
  rw [show 4 * k + 3 = 1 + 4 * k + 2 by omega]
  exact stepAt_initSite cfg text k 2

/-- Settles O5: at each write position the step is a write of the byte that the form of that position writes. -/
theorem writePositionsRunTheBusByteForms : Obligations.WritePositionsRunTheBusByteForms := by
  unfold Obligations.WritePositionsRunTheBusByteForms
  intro s ht hh i hpos
  suffices hwrite : ∃ b, stepAt s.cfg s.lcd.text s.lcd.pc = some (.write b) ∧
      exec i s.pastTurn = .next { s.pastTurn with lcd := (i2cWrite b s.lcd).2 } by
    obtain ⟨b, hs, hexec⟩ := hwrite
    refine ⟨_, hexec, ?_⟩
    rw [step_lcd_turn ht, Lcd.after_busy ht (ne_idle_of_stepAt hs), lcdAdvance_write hh hs]
    split <;> rfl
  rw [← s.pastTurn_cfg, ← s.pastTurn_lcd] at hpos ⊢
  obtain ⟨k, ⟨hk, hpc, rfl⟩ | ⟨hpc, rfl⟩ | ⟨-, hpc, rfl⟩⟩ |
    ⟨j, h, q, c, hpc, hc, ⟨rfl, rfl, rfl⟩ | ⟨rfl, rfl, rfl⟩ | ⟨rfl, rfl⟩⟩ := hpos
  · have hbyte : handshakeByte s.pastTurn.cfg k = s.pastTurn.cfg.fs8 := if_pos hk
    exact ⟨_, by rw [hpc, stepAt_init_assert, hbyte], rfl⟩
  · have hbyte : handshakeByte s.pastTurn.cfg s.pastTurn.cfg.nFs8 = s.pastTurn.cfg.fs4 := if_neg (Nat.lt_irrefl _)
    exact ⟨_, by rw [hpc, stepAt_init_assert, hbyte], rfl⟩
  · exact ⟨_, by rw [hpc, stepAt_init_release], rfl⟩
  · exact ⟨_, by rw [hpc, stepAt_text .hi 0 hc]; rfl, rfl⟩
  · exact ⟨_, by rw [hpc, stepAt_text .lo 0 hc]; rfl, rfl⟩
  · exact ⟨_, by rw [hpc, stepAt_text h 2 hc]; rfl, rfl⟩

/-! Steps that end at a failing write. -/

/-- An operation whose paced steps end at a failing write has ended there: its own end `fin` is not reached, and `st` is
the lifecycle that the exception leaves at every position of the steps (60_exceptions.md R121, R122). -/
theorem whenDone_busError_of_paced (fin : Lcd → Lcd) {xs : List (LcdPc × LcdAct)} (hx : Paced xs) {k : Nat}
    (h : k < actWrites xs) {l : Lcd} {st : LcdState} (hst : ∀ x ∈ xs, stateAfterError { l with pc := x.1 } = st)
    (hh : l.busHung = false) (hok : l.allOk k) (ha : l.answer k = .busError) :
    whenDone fin (runActs xs l) =
      { l.answered (k + 1) with
        events := l.events ++ failedAt (actEvents l.addr xs) (2 * k)
        results := l.results ++ [.busError]
        state := st
        text := []
        pc := .idle } := by
  have hended : whenDone fin (runActs xs l) = (runActs xs l).2 := by
    obtain ⟨ys, p, b, zs, -, -, hrun⟩ := runActs_busError h hh hok ha
    rw [hrun]
    rfl
  rw [hended, runActs_busError_of_paced hx h hst hh hok ha]

theorem failedAt_cons_succ (e : LcdEvent) (es : List LcdEvent) (n : Nat) :
    failedAt (e :: es) (n + 1) = e :: failedAt es n := rfl

/-! Paced lists one after another. -/

theorem Paced.append {xs ys : List (LcdPc × LcdAct)} (hx : Paced xs) (hy : Paced ys) : Paced (xs ++ ys) := by
  match xs, hx with
  | [], _ => exact hy
  | (_, .write _) :: (_, .wait _) :: xs, hx => exact Paced.append (xs := xs) hx hy

theorem paced_initPulses (cfg : Config) (k : Nat) (bs : List Byte) : Paced (initPulses cfg k bs) := by
  induction bs generalizing k with
  | nil => trivial
  | cons b bs ih => exact (paced_pulseActs ..).append (ih (k + 1))

theorem paced_textActs (cfg : Config) (j : Nat) (text : List Byte) : Paced (textActs cfg j text) := by
  induction text generalizing j with
  | nil => trivial
  | cons c cs ih => exact (paced_charActs ..).append (ih (j + 1))

/-! LCD.TRY_NEW (R100, R101, R103, R104). -/

/-- An idle LCD in turn that finds reserved bytes refuses them, whichever of its turns it is. -/
theorem Lcd.after_reserved {cfg : Config} {t : Turn} {l : Lcd} {why : Reserved} {rest : List Byte}
    (ht : t = .lcd ∨ t = .lcdEvent) (hpc : l.pc = .idle) (hd : decodeLcd cfg l.port = .reserved why rest) :
    l.after cfg t = lcdRefuse { l with port := rest } := by
  obtain rfl | rfl := ht
  · simp only [Lcd.after, Lcd.served, if_pos hpc, hd]
  · simp only [Lcd.after, lcdEvent, if_pos hpc, lcdAccept, hd]

theorem handshakeEvents_eq_pulses (cfg : Config) (a : Addr) :
    handshakeEvents cfg a =
      .delay 80 :: (handshakeCommands cfg).flatMap fun b => pulseEvents cfg a b (cmdFlags cfg) := by
  rw [handshakeCommands, List.flatMap_append]
  rfl

/-- LCD after a handshake that ran to its end; `tryNew_eq_handshakeDone` ties it to the machine. -/
def Lcd.handshakeDone (cfg : Config) (a : Addr) (l : Lcd) : Lcd :=
  { l.answered (2 * cfg.nFs8 + 2) with
    state := .ready
    addr := a
    text := []
    events := l.events ++ handshakeEvents cfg a
    results := l.results ++ [.ok]
    pc := .idle }

theorem tryNew_eq_handshakeDone {cfg : Config} {l : Lcd} (a : Addr) (hs : l.state = .uninit) (hh : l.busHung = false)
    (hok : l.allOk (2 * cfg.nFs8 + 2)) : tryNew cfg a l = l.handshakeDone cfg a := by
  obtain ⟨p, hp⟩ := tryNew_allOk (cfg := cfg) a hs hh hok
  rw [hp, Lcd.ran, actWrites_initActs, actEvents_initActs, ← handshakeEvents_eq_pulses]
  rfl

theorem exec_tryNew_eq_handshakeDone {s : State} (a : Addr) (hpc : s.lcd.pc = .idle) (hs : s.lcd.state = .uninit)
    (hh : s.lcd.busHung = false) (hok : s.lcd.allOk (2 * s.cfg.nFs8 + 2)) :
    exec (.lcdTryNew a) s = .next { s with lcd := s.lcd.handshakeDone s.cfg a } := by
  rw [exec, execLcdTryNew, if_pos hpc, tryNew_eq_handshakeDone a hs hh hok]

/-- The handshake is the 80 ms, then its pulses. -/
theorem runActs_initActs {cfg : Config} {l : Lcd} (hh : l.busHung = false) :
    runActs (initActs cfg) l =
      runActs (initPulses cfg 0 (handshakeCommands cfg)) (delayMs tPowerOn { l with pc := .init 0 }) :=
  runActs_cons _ _ _ _ hh

/-- A failing write ends the handshake: the 80 ms were waited, and the pulses ran up to that write. -/
theorem tryNew_eq_failed {cfg : Config} {l : Lcd} {k : Nat} (a : Addr) (hs : l.state = .uninit)
    (hh : l.busHung = false) (hk : k < 2 * cfg.nFs8 + 2) (hok : l.allOk k) (ha : l.answer k = .busError) :
    tryNew cfg a l =
      { l.answered (k + 1) with
        state := .failed
        addr := a
        text := []
        events := l.events ++ failedAt (handshakeEvents cfg a) (2 * k + 1)
        results := l.results ++ [.busError]
        pc := .idle } := by
  have hlen : k < actWrites (initPulses cfg 0 (handshakeCommands cfg)) := by
    rw [actWrites_initPulses, handshakeCommands_length]
    omega
  rw [tryNew, if_pos hs, runActs_initActs (l := { l with addr := a }) hh,
    whenDone_busError_of_paced initReturn (paced_initPulses ..) hlen
      (l := delayMs tPowerOn { l with addr := a, pc := .init 0 })
      (fun x hx => stateAfterError_eq (.inl ⟨initPulses_pos cfg 0 _ x hx, rfl⟩)) hh hok ha,
    actEvents_initPulses, handshakeEvents_eq_pulses, failedAt_cons_succ, List.append_cons l.events]
  rfl

/-- Settles O27: out of UNINIT and with a reserved operand it is Refused; else its steps run to completion or to the
failing write. -/
theorem tryNewRunsTheHandshakeToItsEndOrFirstFailure : Obligations.TryNewRunsTheHandshakeToItsEndOrFirstFailure := by
  unfold Obligations.TryNewRunsTheHandshakeToItsEndOrFirstFailure
  refine ⟨fun s a hpc hs => ?refused, fun s b rest ht hpc hport hb => ?reserved,
    fun s a hpc hs hh hok => exec_tryNew_eq_handshakeDone a hpc hs hh hok, fun s a k hpc hs hh hk hok ha => ?failed,
    rfl, fun cfg a c8 c4 hn h8 h4 => ?listed⟩
  case refused =>
    rw [exec, execLcdTryNew, if_pos hpc, tryNew, if_neg hs]
    rfl
  case reserved =>
    have hd : decodeLcd s.cfg s.lcd.port = .reserved (.tryNewOperand b) rest := by
      rw [hport]
      exact if_pos hb
    exact ⟨rest, by rw [step_lcd_turn ht, Lcd.after_reserved ht hpc hd]; rfl⟩
  case failed => rw [exec, execLcdTryNew, if_pos hpc, tryNew_eq_failed a hs hh hk hok ha]
  case listed =>
    rw [handshakeEvents, hn, h8, h4]
    rfl

/-! LCD.WRITE_TEXT (R102, R103, R104). -/

/-- Every position of a text's steps is one of TEXT(j,h,s) (10_state.md R22). -/
theorem textActs_pos (cfg : Config) (j : Nat) (text : List Byte) :
    ∀ x ∈ textActs cfg j text, ∃ j h q, x.1 = .text j h q := by
  induction text generalizing j with
  | nil => nofun
  | cons c cs ih =>
    intro x hx
    obtain hx | hx := List.mem_append.mp hx
    · obtain ⟨h, q, hq⟩ := charActs_pos hx
      exact ⟨j, h, q, hq⟩
    · exact ih (j + 1) x hx

/-- A failing write ends the text there and leaves the lifecycle alone. -/
theorem writeText_eq_failed {cfg : Config} {l : Lcd} {text : List Byte} {k : Nat} (hs : l.state = .ready)
    (hh : l.busHung = false) (hk : k < 4 * text.length) (hok : l.allOk k) (ha : l.answer k = .busError) :
    writeText cfg text l =
      { l.answered (k + 1) with
        text := []
        events := l.events ++ failedAt (textEvents cfg l.addr text) (2 * k)
        results := l.results ++ [.busError]
        pc := .idle } := by
  rw [← actWrites_textActs cfg 0] at hk
  rw [writeText, if_pos hs,
    whenDone_busError_of_paced (lcdReturn .ok) (paced_textActs ..) hk (l := { l with text := text })
      (fun x hx => stateAfterError_eq (.inr ⟨textActs_pos cfg 0 text x hx, rfl⟩)) hh hok ha, actEvents_textActs]
  rfl

/-- Settles O28: out of READY it is Refused; else its steps run to completion or to the failing write. -/
theorem writeTextSendsEachCharacterInOrder : Obligations.WriteTextSendsEachCharacterInOrder := by
  unfold Obligations.WriteTextSendsEachCharacterInOrder
  refine ⟨fun s text hpc hs => ?refused, fun s text hpc hs hh hok => exec_writeText_eq_textSent hpc hs hh hok,
    fun s text k hpc hs hh hk hok ha => ?failed⟩
  case refused =>
    rw [exec, execLcdWriteText, if_pos hpc, writeText, if_neg hs]
    rfl
  case failed => rw [exec, execLcdWriteText, if_pos hpc, writeText_eq_failed hs hh hk hok ha]

/-! Counts (R101, R102, 70_reset_and_hazards.md R165). -/

theorem writeCount_append (es fs : List LcdEvent) : writeCount (es ++ fs) = writeCount es + writeCount fs := by
  induction es with
  | nil => rw [List.nil_append, writeCount, Nat.zero_add]
  | cons e es ih =>
    rw [List.cons_append]
    cases e with
    | busWrite a b o => rw [writeCount, writeCount, ih, Nat.add_right_comm]
    | delay n => exact ih

theorem delaySum_append (es fs : List LcdEvent) : delaySum (es ++ fs) = delaySum es + delaySum fs := by
  induction es with
  | nil => rw [List.nil_append, delaySum, Nat.zero_add]
  | cons e es ih =>
    rw [List.cons_append]
    cases e with
    | busWrite a b o => exact ih
    | delay n => rw [delaySum, delaySum, ih, Nat.add_assoc]

/-- The events, the writes and the milliseconds of some events. -/
def HasCounts (es : List LcdEvent) (events writes ms : Nat) : Prop :=
  es.length = events ∧ writeCount es = writes ∧ delaySum es = ms

/-- The counts of events one after another add up. -/
theorem HasCounts.append {es fs : List LcdEvent} {n w m n' w' m' : Nat} (he : HasCounts es n w m)
    (hf : HasCounts fs n' w' m') : HasCounts (es ++ fs) (n + n') (w + w') (m + m') := by
  obtain ⟨rfl, rfl, rfl⟩ := he
  obtain ⟨rfl, rfl, rfl⟩ := hf
  exact ⟨List.length_append, writeCount_append es fs, delaySum_append es fs⟩

/-- A pulse is four events, two writes and 6 ms. -/
theorem hasCounts_pulses (cfg : Config) (a : Addr) (flags : Byte) (bs : List Byte) :
    HasCounts (bs.flatMap fun b => pulseEvents cfg a b flags) (4 * bs.length) (2 * bs.length) (6 * bs.length) := by
  induction bs with
  | nil => exact ⟨rfl, rfl, rfl⟩
  | cons b bs ih =>
    have hpulse : HasCounts (pulseEvents cfg a b flags) 4 2 6 := ⟨rfl, rfl, rfl⟩
    rw [List.flatMap_cons, List.length_cons, Nat.mul_succ, Nat.mul_succ, Nat.mul_succ, Nat.add_comm _ 4,
      Nat.add_comm _ 2, Nat.add_comm _ 6]
    exact hpulse.append ih

theorem hasCounts_handshakeEvents (cfg : Config) (a : Addr) :
    HasCounts (handshakeEvents cfg a) (4 * cfg.nFs8 + 5) (2 * cfg.nFs8 + 2) (6 * cfg.nFs8 + 86) := by
  have hpower : HasCounts [.delay 80] 1 0 80 := ⟨rfl, rfl, rfl⟩
  have hall := hpower.append (hasCounts_pulses cfg a (cmdFlags cfg) (handshakeCommands cfg))
  rw [List.singleton_append, ← handshakeEvents_eq_pulses, handshakeCommands_length] at hall
  obtain ⟨hn, hw, hm⟩ := hall
  exact ⟨by omega, by omega, by omega⟩

theorem length_textPayloads (text : List Byte) : (textPayloads text).length = 2 * text.length := by
  simp [textPayloads, List.length_flatMap, Nat.mul_comm]

theorem hasCounts_textEvents (cfg : Config) (a : Addr) (text : List Byte) :
    HasCounts (textEvents cfg a text) (8 * text.length) (4 * text.length) (12 * text.length) := by
  have hall := hasCounts_pulses cfg a (charFlags cfg) (textPayloads text)
  rw [← textEvents_eq_pulses, length_textPayloads] at hall
  obtain ⟨hn, hw, hm⟩ := hall
  exact ⟨by omega, by omega, by omega⟩

/-- Settles O29: an operation that ends Ok appends its pulses, and the counts of each add up. -/
theorem eventCountsAndDelaySums : Obligations.EventCountsAndDelaySums := by
  unfold Obligations.EventCountsAndDelaySums
  refine ⟨fun s t a events writes ms hpc hs hh hok hexec hcounts => ?handshake,
    fun s t text hpc hs hh hok hexec => ?text⟩
  case handshake =>
    rw [exec_tryNew_eq_handshakeDone a hpc hs hh hok] at hexec
    cases hexec
    have hnew : HasCounts (handshakeEvents s.cfg a) events writes ms := by
      obtain ⟨rfl, rfl, rfl⟩ | ⟨hn, rfl, rfl, rfl⟩ := hcounts
      · exact hasCounts_handshakeEvents s.cfg a
      · have h := hasCounts_handshakeEvents s.cfg a
        rwa [hn] at h
    exact HasCounts.append (es := s.lcd.events) ⟨rfl, rfl, rfl⟩ hnew
  case text =>
    rw [exec_writeText_eq_textSent hpc hs hh hok] at hexec
    cases hexec
    exact HasCounts.append (es := s.lcd.events) ⟨rfl, rfl, rfl⟩ (hasCounts_textEvents s.cfg s.lcd.addr text)

end Sys2Proof.Machine
end

section
/-! Refused commands (60_exceptions.md R128, 30_encoding.md R62, 42_lcd_driver.md R103), and that nothing stops the
machine. -/

namespace Sys2Proof.Machine

/-- Settles O6: a step is a function of each agent. -/
theorem everyStepAnswersANextState : Obligations.EveryStepAnswersANextState := by
  unfold Obligations.EveryStepAnswersANextState
  exact fun s => ⟨_, step_eq s⟩

/-- A turn of KP, of either kind, leaves LCD as it is. -/
theorem step_kp_turn {s : State} (ht : s.turn = .kp ∨ s.turn = .kpEvent) :
    step s = .next { s.pastTurn with kp := s.kp.after s.turn } := by
  have hlcd : s.lcd.after s.cfg s.turn = s.pastTurn.lcd := by
    rw [s.pastTurn_lcd]
    obtain ht | ht := ht <;> rw [ht] <;> rfl
  rw [step_eq, hlcd]

/-- An idle KP in turn that finds a reserved byte refuses it, whichever of its turns it is. -/
theorem Kp.after_reserved {t : Turn} {k : Kp} {why : Reserved} {rest : List Byte} (ht : t = .kp ∨ t = .kpEvent)
    (hpc : k.pc = .idle) (hd : decodeKp k.port = .reserved why rest) : k.after t = kpRefuse { k with port := rest } := by
  obtain rfl | rfl := ht
  · simp only [Kp.after, Kp.served, if_pos hpc, hd]
  · simp only [Kp.after, kpEvent, if_pos hpc, kpAccept, hd]

/-- What an idle LCD refuses stands at the head of its port, `rest` behind it: a reserved command, or one out of its
place in the lifecycle (30_encoding.md R62, 42_lcd_driver.md R103). -/
def Lcd.Refuses (cfg : Config) (l : Lcd) (rest : List Byte) : Prop :=
  (∃ why, decodeLcd cfg l.port = .reserved why rest) ∨
  (l.state ≠ .uninit ∧ ∃ a, decodeLcd cfg l.port = .instr (.lcdTryNew a) rest) ∨
  (l.state ≠ .ready ∧ ∃ text, decodeLcd cfg l.port = .instr (.lcdWriteText text) rest)

/-- Either of its turns gives Refused, and nothing else but the port changes. -/
theorem Lcd.after_refuses {cfg : Config} {t : Turn} {l : Lcd} {rest : List Byte} (ht : t = .lcd ∨ t = .lcdEvent)
    (hpc : l.pc = .idle) (h : l.Refuses cfg rest) : l.after cfg t = lcdRefuse { l with port := rest } := by
  obtain ⟨why, hd⟩ | ⟨hs, a, hd⟩ | ⟨hs, text, hd⟩ := h
  · exact Lcd.after_reserved ht hpc hd
  · obtain rfl | rfl := ht
    · simp only [Lcd.after, Lcd.served, if_pos hpc, hd, tryNew, if_neg hs]
    · simp only [Lcd.after, lcdEvent, if_pos hpc, lcdAccept, hd, beginTryNew, if_neg hs]
  · obtain rfl | rfl := ht
    · simp only [Lcd.after, Lcd.served, if_pos hpc, hd, writeText, if_neg hs]
    · simp only [Lcd.after, lcdEvent, if_pos hpc, lcdAccept, hd, beginWriteText, if_neg hs]

theorem step_lcd_refuses {s : State} {rest : List Byte} (ht : s.turn = .lcd ∨ s.turn = .lcdEvent)
    (hpc : s.lcd.pc = .idle) (h : s.lcd.Refuses s.cfg rest) :
    step s = .next { s.pastTurn with lcd := { s.lcd with port := rest, results := s.lcd.results ++ [.refused] } } := by
  rw [step_lcd_turn ht, Lcd.after_refuses ht hpc h]
  rfl

/-! What is refused, by the bytes at the port. -/

/-- A text command whose characters are all at the port is read whole, or reserved where its count is above TEXT_MAX. -/
theorem decodeWriteText_complete (cfg : Config) {n : Byte} {text : List Byte} (hn : text.length = n.toNat)
    (rest : List Byte) :
    decodeWriteText cfg (n :: (text ++ rest)) =
      if n.toNat ≤ cfg.textMax then .instr (.lcdWriteText text) rest else .reserved (.textCount n) rest := by
  simp [decodeWriteText, ← hn]

section Refuses
variable {cfg : Config} {l : Lcd} {rest : List Byte}

theorem Lcd.refuses_opcode {b : Byte} (hport : l.port = b :: rest) (h10 : b ≠ 0x10) (h11 : b ≠ 0x11) :
    l.Refuses cfg rest :=
  .inl ⟨.lcdOpcode b, by rw [hport]; exact (if_neg h10).trans (if_neg h11)⟩

theorem Lcd.refuses_tryNew_operand {a : Byte} (hport : l.port = 0x10 :: a :: rest) (ha : a.getLsbD 7 = true) :
    l.Refuses cfg rest :=
  .inl ⟨.tryNewOperand a, by rw [hport]; exact if_pos ha⟩

theorem Lcd.refuses_tryNew {a : Byte} (hport : l.port = 0x10 :: a :: rest) (hs : l.state ≠ .uninit) :
    l.Refuses cfg rest := by
  by_cases ha : a.getLsbD 7 = true
  · exact Lcd.refuses_tryNew_operand hport ha
  · exact .inr (.inl ⟨hs, a.setWidth 7, by rw [hport]; exact if_neg ha⟩)

theorem Lcd.refuses_writeText {n : Byte} {text : List Byte} (hport : l.port = 0x11 :: n :: (text ++ rest))
    (hn : text.length = n.toNat) (h : l.state ≠ .ready ∨ cfg.textMax < n.toNat) : l.Refuses cfg rest := by
  have hd : decodeLcd cfg l.port = decodeWriteText cfg (n :: (text ++ rest)) := by rw [hport]; rfl
  rw [decodeWriteText_complete cfg hn] at hd
  by_cases hmax : n.toNat ≤ cfg.textMax
  · rw [if_pos hmax] at hd
    exact .inr (.inr ⟨h.resolve_right (Nat.not_lt.mpr hmax), text, hd⟩)
  · rw [if_neg hmax] at hd
    exact .inl ⟨.textCount n, hd⟩

/-- A FAILED driver refuses every command (60_exceptions.md R124). -/
theorem Lcd.exists_refuses_of_failed (hs : l.state = .failed) (hd : decodeLcd cfg l.port ≠ .incomplete) :
    ∃ rest, l.Refuses cfg rest := by
  cases hcmd : decodeLcd cfg l.port with
  | incomplete => exact absurd hcmd hd
  | reserved why rest => exact ⟨rest, .inl ⟨why, hcmd⟩⟩
  | instr i rest =>
    obtain ⟨a, rfl⟩ | ⟨text, rfl⟩ := decodeLcd_eq_instr hcmd
    · exact ⟨rest, .inr (.inl ⟨by simp [hs], a, hcmd⟩)⟩
    · exact ⟨rest, .inr (.inr ⟨by simp [hs], text, hcmd⟩)⟩

end Refuses

/-- Settles O7: in each case the head of the port is a command that an idle agent refuses. -/
theorem refusedCommandsHaveNoEffect : Obligations.RefusedCommandsHaveNoEffect := by
  unfold Obligations.RefusedCommandsHaveNoEffect
  refine ⟨fun s b rest ht hpc hport hb => ?kpByte,
    fun s b rest ht hpc hport h10 h11 => step_lcd_refuses ht hpc (Lcd.refuses_opcode hport h10 h11),
    fun s a rest ht hpc hport ha => step_lcd_refuses ht hpc (Lcd.refuses_tryNew_operand hport ha),
    fun s a rest ht hpc hs hport => step_lcd_refuses ht hpc (Lcd.refuses_tryNew hport hs),
    fun s n text rest ht hpc h hn hport => step_lcd_refuses ht hpc (Lcd.refuses_writeText hport hn h)⟩
  case kpByte =>
    have hd : decodeKp s.kp.port = .reserved (.kpByte b) rest := by
      rw [hport]
      exact if_neg hb
    rw [step_kp_turn ht, Kp.after_reserved ht hpc hd]
    rfl

end Sys2Proof.Machine
end

section
/-! A bus write that fails, and one that never completes, inside an operation (60_exceptions.md R122, R124, R133). -/

namespace Sys2Proof.Machine

/-! The exception. -/

/-- Settles O30: the step is the write, and the write raises the exception. -/
theorem busErrorEndsTheOperationAtOnce : Obligations.BusErrorEndsTheOperationAtOnce := by
  unfold Obligations.BusErrorEndsTheOperationAtOnce
  intro s b st ht hh hstep ha hpc
  rw [step_lcd_turn ht, Lcd.after_busy ht (ne_idle_of_stepAt hstep), lcdAdvance_step hh hstep, lcdAct,
    i2cWrite_busError b s.lcd hh ha, ← stateAfterError_eq hpc]
  rfl

/-! The transaction that never completes: where an operation waits for it. -/

/-- Write `k` of a paced list of steps, if it never completes, leaves the agent at step `2 * k` with the events before it
done. -/
theorem runActs_never_at {xs : List (LcdPc × LcdAct)} (hx : Paced xs) {k : Nat} (h : k < actWrites xs) {l : Lcd}
    (hh : l.busHung = false) (hok : l.allOk k) (ha : l.answer k = .never) :
    ∃ x, xs[2 * k]? = some x ∧
      runActs xs l = (.waiting,
        { l.answered (k + 1) with
          busHung := true
          events := l.events ++ (actEvents l.addr xs).take (2 * k)
          pc := x.1 }) := by
  obtain ⟨ys, p, b, zs, hxs, rfl, hrun⟩ := runActs_never h hh hok ha
  refine ⟨(p, .write b), ?_, ?_⟩
  · subst hxs
    rw [← hx.length_eq]
    simp
  · rw [hrun, ← hx.actEvents_eq hxs, ← Lcd.answered_answered]
    rfl

theorem initPulses_pos_at {cfg : Config} {k n : Nat} {bs : List Byte} {x : LcdPc × LcdAct}
    (h : (initPulses cfg k bs)[n]? = some x) : x.1 = .init (1 + 4 * k + n) := by
  induction bs generalizing k n with
  | nil => cases h
  | cons b bs ih =>
    rw [initPulses] at h
    match n, h with
    | 0, h => cases h; rfl
    | 1, h => cases h; rfl
    | 2, h => cases h; rfl
    | 3, h => cases h; rfl
    | n + 4, h =>
      have htail : (initPulses cfg (k + 1) bs)[n]? = some x := h
      rw [ih htail]
      congr 1
      omega

/-- Where step `q` of half `h` stands among the eight steps of a character (41_nibble_writer.md R91). -/
def charStep (h : Half) (q : Fin 4) : Nat := (if h = .hi then 0 else 4) + q.val

theorem charActs_getElem? (cfg : Config) (site : Half → Fin 4 → LcdPc) (c : Byte) (h : Half) (q : Fin 4) :
    (charActs cfg site c)[charStep h q]? =
      some (site h q, pulseAct cfg (halfNibble c h) (charFlags cfg) q) := by
  cases h <;> fin_cases q <;> rfl

theorem textActs_pos_at {cfg : Config} {j i : Nat} {h : Half} {q : Fin 4} {text : List Byte} {x : LcdPc × LcdAct}
    (hx : (textActs cfg j text)[8 * i + charStep h q]? = some x) : x.1 = .text (j + i) h q := by
  induction text generalizing j i with
  | nil => cases hx
  | cons c cs ih =>
    have hlen : (charActs cfg (fun h s => .text j h s) c).length = 8 := rfl
    rw [textActs] at hx
    cases i with
    | zero =>
      have hc := charActs_getElem? cfg (fun h s => .text j h s) c h q
      rw [Nat.mul_zero, Nat.zero_add, List.getElem?_append_left (List.getElem?_eq_some_iff.mp hc).1, hc] at hx
      cases hx
      rfl
    | succ i =>
      rw [List.getElem?_append_right (by omega), hlen,
        show 8 * (i + 1) + charStep h q - 8 = 8 * i + charStep h q by omega] at hx
      rw [ih hx, Nat.add_assoc, Nat.add_comm 1]

/-- A handshake whose write `k` never completes waits at that write. -/
theorem tryNew_eq_hung {cfg : Config} {l : Lcd} {k : Nat} (a : Addr) (hs : l.state = .uninit)
    (hh : l.busHung = false) (hk : k < 2 * cfg.nFs8 + 2) (hok : l.allOk k) (ha : l.answer k = .never) :
    tryNew cfg a l =
      { l.answered (k + 1) with
        addr := a
        busHung := true
        events := l.events ++ (handshakeEvents cfg a).take (2 * k + 1)
        pc := .init (2 * k + 1) } := by
  have hlen : k < actWrites (initPulses cfg 0 (handshakeCommands cfg)) := by
    rw [actWrites_initPulses, handshakeCommands_length]
    omega
  obtain ⟨x, hx, hrun⟩ := runActs_never_at (paced_initPulses ..) hlen
    (l := delayMs tPowerOn { l with addr := a, pc := .init 0 }) hh hok ha
  have hpos : x.1 = .init (2 * k + 1) := by
    rw [initPulses_pos_at hx, Nat.add_comm]
  rw [tryNew, if_pos hs, runActs_initActs (l := { l with addr := a }) hh, hrun, hpos, actEvents_initPulses,
    handshakeEvents_eq_pulses, List.take_succ_cons, List.append_cons l.events]
  rfl

/-- A text whose write `k` never completes waits at that write: step `q` of half `h` of character `j`. -/
theorem writeText_eq_hung {cfg : Config} {l : Lcd} {text : List Byte} {j k : Nat} {h : Half} {q : Fin 4}
    (hs : l.state = .ready) (hh : l.busHung = false) (hk : k < 4 * text.length) (hok : l.allOk k)
    (ha : l.answer k = .never) (hpos : 2 * k = 8 * j + charStep h q) :
    writeText cfg text l =
      { l.answered (k + 1) with
        text := text
        busHung := true
        events := l.events ++ (textEvents cfg l.addr text).take (2 * k)
        pc := .text j h q } := by
  rw [← actWrites_textActs cfg 0] at hk
  obtain ⟨x, hx, hrun⟩ := runActs_never_at (paced_textActs ..) hk (l := { l with text := text }) hh hok ha
  have hpc : x.1 = .text j h q := by
    rw [hpos] at hx
    rw [textActs_pos_at hx, Nat.zero_add]
  rw [writeText, if_pos hs, hrun, hpc, actEvents_textActs]
  rfl

/-- Settles O31: an operation waits at the write, from there no turn changes LCD, and KP does not see it. -/
theorem hungTransactionStopsLcdForEver : Obligations.HungTransactionStopsLcdForEver := by
  unfold Obligations.HungTransactionStopsLcdForEver
  refine ⟨fun s a k hpc hs hh hk hok ha => ?handshake, fun s text j k h q hpc hs hh hk hok ha hpos hq => ?text,
    fun s hh hpc ht => ?lcdStays, fun s u t t' ht hu hstep hstep' => ?kpGoesOn⟩
  case handshake => rw [exec, execLcdTryNew, if_pos hpc, tryNew_eq_hung a hs hh hk hok ha]
  case text =>
    have hwrite : 2 * k = 8 * j + charStep h q := by
      have heven : q.val = 0 ∨ q.val = 2 := hq.imp (congrArg Fin.val) (congrArg Fin.val)
      rw [hpos, charStep]
      split <;> omega
    rw [exec, execLcdWriteText, if_pos hpc, writeText_eq_hung hs hh hk hok ha hwrite]
  case lcdStays =>
    have hrst : s.turn ≠ .rst := by obtain ht | ht := ht <;> simp [ht]
    rw [step_lcd_turn ht, Lcd.after_of_hung s.cfg hrst hpc hh, ← s.pastTurn_lcd]
  case kpGoesOn =>
    subst hu
    rw [step_kp hstep, step_kp hstep']
    rfl

/-! After a failure. -/

/-- A safe FAILED driver is in no operation, and waits for no transaction. -/
theorem Lcd.Inv.idle_of_failed {cfg : Config} {l : Lcd} (h : l.Inv cfg) (hs : l.state = .failed) :
    l.pc = .idle ∧ l.busHung = false := by
  obtain ⟨-, hfits, -⟩ := h
  cases hpc : l.pc with
  | idle => exact ⟨rfl, (fits_idle hfits hpc).2⟩
  | init i =>
    obtain ⟨-, huninit, -⟩ := fits_init hfits hpc
    cases hs.symm.trans huninit
  | text j h q =>
    obtain ⟨-, hready⟩ := fits_text hfits hpc
    cases hs.symm.trans hready

/-- Since it stood at `l` the driver has refused at most one command, and is FAILED and idle (60_exceptions.md R124). -/
def Lcd.StillFailed (l l' : Lcd) : Prop :=
  l'.pc = .idle ∧ l'.state = .failed ∧ l'.events = l.events ∧
    (l'.results = l.results ∨ l'.results = l.results ++ [.refused])

theorem Lcd.stillFailed_after {cfg : Config} {t : Turn} {l : Lcd} (ht : t ≠ .rst) (h : l.Inv cfg)
    (hs : l.state = .failed) : l.StillFailed (l.after cfg t) := by
  obtain ⟨hpc, hh⟩ := h.idle_of_failed hs
  refine Lcd.after_induct ht (fun _ => hh) ⟨hpc, hs, rfl, .inl rfl⟩ (fun _ => ?accept) fun l' hl' => ?advance
  case accept =>
    obtain ha | ⟨rest, ha⟩ | ⟨rest, hready, -⟩ | ⟨a, rest, huninit, -, -⟩ | ⟨text, rest, hready, -, -⟩ :=
      lcdAccept_cases cfg l
    · rw [ha]; exact ⟨hpc, hs, rfl, .inl rfl⟩
    · rw [ha]; exact ⟨hpc, hs, rfl, .inr rfl⟩
    · cases hs.symm.trans hready
    · cases hs.symm.trans huninit
    · cases hs.symm.trans hready
  case advance => rwa [lcdAdvance_idle hl'.1]

/-- Settles O36: a FAILED driver stays idle and refuses what it finds; after a failed text the next begins at its first
step, on the answers that come next. -/
theorem laterCommandsAfterAFailure : Obligations.LaterCommandsAfterAFailure := by
  unfold Obligations.LaterCommandsAfterAFailure
  refine ⟨fun s t hinv hs ht hstep => ?staysFailed, fun s hs hpc ht hd => ?refused,
    fun s x y k hpc hs hh hk hok ha hy => ?nextText⟩
  case staysFailed =>
    rw [step_lcd hstep]
    exact (Lcd.stillFailed_after ht hinv.2 hs).2
  case refused =>
    obtain ⟨rest, hrefuses⟩ := Lcd.exists_refuses_of_failed hs hd
    exact ⟨rest, step_lcd_refuses ht hpc hrefuses⟩
  case nextText =>
    obtain ⟨-, -, hfails⟩ := writeTextSendsEachCharacterInOrder
    have hnext : (s.lcd.answered (k + 1)).allOk (4 * y.length) := fun i hi => by
      rw [Lcd.answer_answered]
      exact hy i hi
    refine ⟨_, _, hfails s x k hpc hs hh hk hok ha, hs, exec_writeText_eq_textSent rfl hs hh hnext, rfl, ?_⟩
    exact List.append_assoc ..

end Sys2Proof.Machine
end

section
/-! Reset at any instant, and the delays a safe run owes (70_reset_and_hazards.md R140, R141, R144, R150). -/

namespace Sys2Proof.Machine

/-! The delays. -/

/-- The delay that must come next at a phase, where one must (42_lcd_driver.md R100, 41_nibble_writer.md R90). -/
def Phase.owedDelay : Phase → Option Nat
  | .fresh => some 80
  | .quiet => none
  | .asserted => some 1
  | .strobed => none
  | .released => some 5

/-- The delay a completed write of `b` calls for: an ASSERT byte has the enable bit (41_nibble_writer.md R90). -/
def delayAfter (cfg : Config) (b : Byte) : Nat := if b &&& cfg.displayOn = cfg.displayOn then 1 else 5

theorem delayAfter_assert {cfg : Config} {b : Byte} (h : HasControlBits cfg b) : delayAfter cfg b = 1 := if_pos h.1

theorem delayAfter_release {cfg : Config} (h : cfg.wf = true) : delayAfter cfg cfg.backlightOn = 5 :=
  if_neg fun hd => ne_releaseByte h ⟨hd, BitVec.and_self⟩ rfl

/-- A disciplined event is a delay exactly where one is owed, and then it is that delay. -/
theorem owedDelay_before_iff {cfg : Config} {a : Addr} {before p : Phase} {e : LcdEvent} {n : Nat}
    (h : phaseStep cfg a (some before) e = some p) : before.owedDelay = some n ↔ e = .delay n := by
  obtain ⟨hb, rfl, -⟩ | ⟨b, o, hb, rfl, -, -⟩ | ⟨hb, rfl, -⟩ | ⟨o, hb, rfl, -⟩ | ⟨hb, rfl, -⟩ := phaseStep_eq_some h
  all_goals
    cases hb
    simp [Phase.owedDelay]

/-- A disciplined event leaves a delay owed exactly when it is a completed write, which calls for that delay. -/
theorem owedDelay_after_iff {cfg : Config} (hwf : cfg.wf = true) {a : Addr} {before : Option Phase} {p : Phase}
    {e : LcdEvent} {n : Nat} (h : phaseStep cfg a before e = some p) :
    p.owedDelay = some n ↔ ∃ a' b, e = .busWrite a' b .ok ∧ n = delayAfter cfg b := by
  obtain ⟨-, rfl, rfl⟩ | ⟨b, o, -, rfl, hb, rfl⟩ | ⟨-, rfl, rfl⟩ | ⟨o, -, rfl, rfl⟩ | ⟨-, rfl, rfl⟩ :=
    phaseStep_eq_some h
  · simp [Phase.owedDelay]
  · cases o <;> simp [Phase.afterWrite, Phase.owedDelay, delayAfter_assert hb, eq_comm]
  · simp [Phase.owedDelay]
  · cases o <;> simp [Phase.afterWrite, Phase.owedDelay, delayAfter_release hwf, eq_comm]
  · simp [Phase.owedDelay]

/-- In a disciplined history an event is the delay `n` exactly when the event before it is a completed write that calls
for `n`. -/
theorem eq_delay_iff_of_replayBus {cfg : Config} (hwf : cfg.wf = true) {a : Addr} {xs ys : List LcdEvent}
    {e e' : LcdEvent} {n : Nat} {p : Phase} (h : replayBus cfg a (xs ++ e :: e' :: ys) = some p) :
    e' = .delay n ↔ ∃ a' b, e = .busWrite a' b .ok ∧ n = delayAfter cfg b := by
  obtain ⟨q, hq⟩ := phaseStep_of_replayBus h
  rw [List.append_cons] at h
  obtain ⟨r, hr⟩ := phaseStep_of_replayBus h
  rw [replayBus_append_one, hq] at hr
  exact (owedDelay_before_iff hr).symm.trans (owedDelay_after_iff hwf hq)

/-- Settles O39: the first event is the delay owed at the beginning, and of two successive events the second is a delay
exactly when the first is the completed write that calls for it. -/
theorem everyWriteIsFollowedByItsDelay : Obligations.EveryWriteIsFollowedByItsDelay := by
  unfold Obligations.EveryWriteIsFollowedByItsDelay
  rintro s hwf ⟨-, hreplay, -⟩
  refine ⟨fun xs a b e ys hes => ?afterWrite, fun e ys hes => ?first, fun xs e n ys hes => ?beforeDelay⟩
  all_goals rw [hes] at hreplay
  case afterWrite => exact (eq_delay_iff_of_replayBus hwf hreplay).mpr ⟨a, b, rfl, rfl⟩
  case first =>
    obtain ⟨q, hq⟩ := phaseStep_of_replayBus (xs := []) hreplay
    exact (owedDelay_before_iff hq).mp rfl
  case beforeDelay =>
    obtain ⟨a, b, he, -⟩ := (eq_delay_iff_of_replayBus hwf hreplay).mp rfl
    exact ⟨a, b, he⟩

/-! Reset. -/

theorem step_rst {s : State} (h : s.turn = .rst) : step s = .next s.pastTurn.rst := by
  rw [step, h, takeTurn]

/-- No bit of STATUS is set where both agents are idle and LCD is UNINIT (10_state.md R24). -/
theorem status_eq_zero {s : State} (hkp : s.kp.pc = .idle) (hlcd : s.lcd.pc = .idle) (hs : s.lcd.state = .uninit) :
    s.status = 0b0000 := by
  rw [status_eq, hkp, hlcd, hs]
  rfl

/-- An idle KP takes KP.PRESSED_KEY and answers it with one result (40_keypad.md R73). -/
theorem exec_kpPressedKey_results {s : State} (hpc : s.kp.pc = .idle) :
    ∃ u r, exec .kpPressedKey s = .next u ∧ u.kp.results = s.kp.results ++ [r] :=
  ⟨_, _, pressedKeyScansDecodesAndReports s _ _ hpc rfl rfl, rfl⟩

/-- Settles O42: the state after `rst` has the reset values field by field, and its KP is idle, so a first call is
answered at once. -/
theorem resetTakesTheResetValuesAtAnyTime : Obligations.ResetTakesTheResetValuesAtAnyTime := by
  unfold Obligations.ResetTakesTheResetValuesAtAnyTime
  intro s h
  obtain ⟨u, r, hexec, hresults⟩ := exec_kpPressedKey_results (s := s.pastTurn.rst) rfl
  have hstatus : s.pastTurn.rst.status = 0b0000 := status_eq_zero rfl rfl rfl
  have hone : u.kp.results.length = 1 := by rw [hresults]; rfl
  exact ⟨_, step_rst h, by simp [hstatus, hexec, hone]⟩

end Sys2Proof.Machine
end
